-- ==== Sys2Proof/Word.lean ====
section
/-!
DEFINITION. The word types of the update-engine core, and the closed sets of names that the decoder
and the state share. Widths: spec/10_state.md (section 2 and section 3), spec/00_scope.md R10, R12.
-/

namespace Sys2Proof

/-- A byte of flash, of a buffer or of the serial link (R12 `bits8`). -/
abbrev Byte := BitVec 8

/-- A 16-bit value: a CRC, the trailer (R12 `bits16`). -/
abbrev Half := BitVec 16

/-- A 32-bit register of the window, or a flash address (R10 `ADDR_W` = 32, R35). -/
abbrev Word := BitVec 32

/-- R21: the states of the top-level sequencer. The encodings 6 and 7 are never held. -/
inductive Top where
  | check
  | app
  | erase
  | receive
  | finish
  | restart
deriving DecidableEq, Repr

/-- R22: the states of the packet receiver. -/
inductive Rxs where
  | idle
  | polling
  | receiving
  | done
deriving DecidableEq, Repr

/-- R24: the expected packet size class, `SIZE` = 0 (short) or 1 (long). -/
inductive SizeClass where
  | short
  | long
deriving DecidableEq, Repr

/-- R31: the two argument registers a host may write. -/
inductive ArgReg where
  | arg0
  | arg1
deriving DecidableEq, Repr

end Sys2Proof
end

