-- ==== Sys2Proof/Syntax.lean ====
section
/-!
DEFINITION. The instruction forms: one constructor per row of spec/opcode_table.json, in the table's order.
The block has no instruction stream (R20): its rows are the receiver's steps, the received
bytes, the transmitted bytes, the host's register writes, the internal operations and the sequencer's steps.
-/

namespace Sys2Proof

/-- One constructor per row of spec/opcode_table.json. -/
inductive Instr where
  /-- RX_IDLE_POLL, R141. -/
  | rxIdlePoll
  /-- SOH@POLLING, R142. -/
  | sohPolling
  /-- STX@POLLING, R142. -/
  | stxPolling
  /-- OTHER@POLLING, R143: the dropped byte. -/
  | otherPolling (b : Byte)
  /-- RX_POLLING_TIMEOUT, R144. -/
  | rxPollingTimeout
  /-- RX_POLLING_NOTHING, R145. -/
  | rxPollingNothing
  /-- SOH@RECEIVING, R146. -/
  | sohReceiving
  /-- STX@RECEIVING, R146. -/
  | stxReceiving
  /-- EOT@RECEIVING, R147. -/
  | eotReceiving
  /-- OTHER@RECEIVING, R148: the dropped byte. -/
  | otherReceiving (b : Byte)
  /-- RX_INDEX, R149. -/
  | rxIndex (b : Byte)
  /-- RX_INDEX_INV, R150. -/
  | rxIndexInv (b : Byte)
  /-- RX_PAYLOAD, R151. -/
  | rxPayload (b : Byte)
  /-- RX_CRC_HI, R152. -/
  | rxCrcHi (b : Byte)
  /-- RX_CRC_LO, R153. -/
  | rxCrcLo (b : Byte)
  /-- RX_PACKET_TIMEOUT, R154. -/
  | rxPacketTimeout
  /-- RX_RECEIVING_NOTHING, R155. -/
  | rxReceivingNothing
  /-- RX_DONE, R156. -/
  | rxDone
  /-- TX_POLL, R99 (sent by R141 and R144). -/
  | txPoll
  /-- TX_ACK, R99 (sent by R147 and R153). -/
  | txAck
  /-- TX_NAK, R99 (sent by R153). -/
  | txNak
  /-- NOP, R219. -/
  | nop
  /-- CMD_CRC, R125. -/
  | cmdCrc
  /-- CMD_CHECK, R221. -/
  | cmdCheck
  /-- CMD_TRAILER, R186. -/
  | cmdTrailer
  /-- CMD_RESERVED, R222: the code is `{01, low}`. -/
  | cmdReserved (low : BitVec 2)
  /-- CMD_RESERVED_8_F, R222: the code is `{1, low}`. -/
  | cmdReserved8F (low : BitVec 3)
  /-- CMD_BUSY, R223: the non-zero code that was rejected. -/
  | cmdBusy (cmd : BitVec 4)
  /-- ARG_WRITE, R224. -/
  | argWrite (reg : ArgReg) (w : Word)
  /-- CRC16_STEP, R120. -/
  | crc16Step (c : Half) (b : Byte)
  /-- CRC16, R121. -/
  | crc16 (bytes : List Byte)
  /-- SESSION_ERASE, R180. -/
  | sessionErase
  /-- PROGRAM, R181: the payload length is that of a size class, 128 or 1024. -/
  | program (size : SizeClass)
  /-- WRITE_TRAILER, R185. -/
  | writeTrailer (v : Half)
  /-- IS_APP_VALID, R210. -/
  | isAppValid
  /-- SEQ_CHECK, R211. -/
  | seqCheck
  /-- SEQ_ERASE, R213. -/
  | seqErase
  /-- SEQ_RECEIVE, R140. -/
  | seqReceive
  /-- SEQ_FINISH, R215. -/
  | seqFinish
  /-- SEQ_APP, R217. -/
  | seqApp
  /-- SEQ_RESTART, R216. -/
  | seqRestart
deriving DecidableEq, Repr

end Sys2Proof
end

