-- ==== Sys2Proof/WellFormed.lean ====
section
/-!
DEFINITION. Which instruction terms stand for a form of the table: the conditions on an operand that its type does
not already say. They are the table's "priority" entries (R97, R218).
-/

namespace Sys2Proof

/-- R97, R98: the byte a polling receiver drops is no start marker; the byte a receiver drops at offset 0 is
neither a start marker nor EOT. R218, R223: a command turned away as busy has a non-zero code. -/
def Instr.wf : Instr → Bool
  | .otherPolling b => b != 0x01 && b != 0x02
  | .otherReceiving b => b != 0x01 && b != 0x02 && b != 0x04
  | .cmdBusy cmd => cmd != 0
  | .rxIdlePoll | .sohPolling | .stxPolling | .rxPollingTimeout | .rxPollingNothing
  | .sohReceiving | .stxReceiving | .eotReceiving | .rxIndex _ | .rxIndexInv _ | .rxPayload _
  | .rxCrcHi _ | .rxCrcLo _ | .rxPacketTimeout | .rxReceivingNothing | .rxDone
  | .txPoll | .txAck | .txNak
  | .nop | .cmdCrc | .cmdCheck | .cmdTrailer | .cmdReserved _ | .cmdReserved8F _ | .argWrite _ _
  | .crc16Step _ _ | .crc16 _ | .sessionErase | .program _ | .writeTrailer _ | .isAppValid
  | .seqCheck | .seqErase | .seqReceive | .seqFinish | .seqApp | .seqRestart => true

end Sys2Proof
end

