-- ==== Sys2Proof/Decode.lean ====
section
/-!
DEFINITION. The decoder: which row of the table a received byte, a transmitted byte, a write of the
register window or a state of the control registers stands for (spec/30_encoding.md R90, R97, R99,
R101, R103; spec/41_receiver.md R140; spec/43_boot_decision.md R214, R218), total, with a named rejection for
what no row takes; and after it the encoder, from the same tables.
-/

namespace Sys2Proof

/-- What the decode map of R97 and the dispatch of R214 and R218 look at. -/
structure Ctx where
  top    : Top
  rxs    : Rxs
  offset : BitVec 11
  size   : SizeClass
deriving DecidableEq, Repr

/-- R140: what a sampling receiver step finds: a byte; no byte and an expired timer; neither. -/
inductive Sample where
  | byte (b : Byte)
  | expired
  | quiet
deriving DecidableEq, Repr

/-- Why the decoder takes no row. -/
inductive Reject where
  /-- R97, U18: a byte at an `OFFSET` past the last byte of its packet; no rule gives it a meaning.
  DEDUCED: notes/assumptions/10.md. -/
  | offsetOutOfPacket
  /-- R97, R214: no byte is sampled outside `RECEIVE`, in `IDLE` or in `DONE`. -/
  | notSampled
  /-- R99: the core transmits no such byte. -/
  | neverTransmitted
  /-- R35, U14: a write of a read-only or reserved word is ignored. -/
  | ignoredWrite
deriving DecidableEq, Repr

/-- An encoded form: a received byte, a transmitted byte, or an aligned 32-bit write at an offset of the register window. -/
inductive Code where
  | rx (b : Byte)
  | tx (b : Byte)
  | write (offset : Nat) (w : Word)
deriving DecidableEq, Repr

/-- R157 `PKTLEN`: the payload length of a size class. -/
def pktLen : SizeClass → Nat
  | .short => 128
  | .long => 1024

/-- R90, R93: the start marker of a 128-byte packet. -/
def sohByte : Byte := 0x01
/-- R90, R93: the start marker of a 1024-byte packet. -/
def stxByte : Byte := 0x02
/-- R90: end of transmission. -/
def eotByte : Byte := 0x04
/-- R90: acknowledge. -/
def ackByte : Byte := 0x06
/-- R90: negative-acknowledge. -/
def nakByte : Byte := 0x15
/-- R90: the poll byte. -/
def pollByte : Byte := 0x43

/-- R35: the offset of `CTRL` in the register window. -/
def ctrlOffset : Nat := 0x00
/-- R35: the offset of `ARG0` in the register window. -/
def arg0Offset : Nat := 0x08
/-- R35: the offset of `ARG1` in the register window. -/
def arg1Offset : Nat := 0x0C

/-- R214: the row of the core's autonomous step, chosen by `TOP`. -/
def decodeTop : Top → Instr
  | .check => .seqCheck
  | .app => .seqApp
  | .erase => .seqErase
  | .receive => .seqReceive
  | .finish => .seqFinish
  | .restart => .seqRestart

/-- R97, R140: the row a step in `POLLING` runs. -/
def decodePolling : Sample → Instr
  | .byte b => if b = sohByte then .sohPolling else if b = stxByte then .stxPolling else .otherPolling b
  | .expired => .rxPollingTimeout
  | .quiet => .rxPollingNothing

/-- R97: the row of a byte received at offset 0 in `RECEIVING`. -/
def decodeLeading (b : Byte) : Instr :=
  if b = sohByte then .sohReceiving
  else if b = stxByte then .stxReceiving
  else if b = eotByte then .eotReceiving
  else .otherReceiving b

/-- R92, R97: the row of a byte received in `RECEIVING`, by its position in the packet. -/
def decodePosition (offset : BitVec 11) (size : SizeClass) (b : Byte) : Except Reject Instr :=
  if offset.toNat = 0 then .ok (decodeLeading b)
  else if offset.toNat = 1 then .ok (.rxIndex b)
  else if offset.toNat = 2 then .ok (.rxIndexInv b)
  else if offset.toNat ≤ pktLen size + 2 then .ok (.rxPayload b)
  else if offset.toNat = pktLen size + 3 then .ok (.rxCrcHi b)
  else if offset.toNat = pktLen size + 4 then .ok (.rxCrcLo b)
  else .error .offsetOutOfPacket

/-- R97, R140: the row a step in `RECEIVING` runs. -/
def decodeReceiving (offset : BitVec 11) (size : SizeClass) : Sample → Except Reject Instr
  | .byte b => decodePosition offset size b
  | .expired => .ok .rxPacketTimeout
  | .quiet => .ok .rxReceivingNothing

/-- R140: the row a receiver step runs; `IDLE` and `DONE` look at no sample. -/
def decodeReceiver (c : Ctx) (x : Sample) : Except Reject Instr :=
  match c.rxs with
  | .idle => .ok .rxIdlePoll
  | .polling => .ok (decodePolling x)
  | .receiving => decodeReceiving c.offset c.size x
  | .done => .ok .rxDone

/-- R99: the row of a transmitted byte. -/
def decodeTx (b : Byte) : Except Reject Instr :=
  if b = pollByte then .ok .txPoll
  else if b = ackByte then .ok .txAck
  else if b = nakByte then .ok .txNak
  else .error .neverTransmitted

/-- R101: `CMD` = `CTRL[3:0]`. -/
def cmdField (w : Word) : BitVec 4 := w.extractLsb' 0 4

/-- R101, R103: the row of a command code, in `TOP = APP`. -/
def decodeCmd (cmd : BitVec 4) : Instr :=
  if cmd = 0x0 then .nop
  else if cmd = 0x1 then .cmdCrc
  else if cmd = 0x2 then .cmdCheck
  else if cmd = 0x3 then .cmdTrailer
  else if cmd.getLsbD 3 then .cmdReserved8F (cmd.extractLsb' 0 3)
  else .cmdReserved (cmd.extractLsb' 0 2)

/-- R218: the row of a write of `w` to `CTRL`: code 0 first, then busy, then the code. -/
def decodeCtrl (top : Top) (w : Word) : Instr :=
  if cmdField w = 0 then .nop
  else if top = .app then decodeCmd (cmdField w)
  else .cmdBusy (cmdField w)

/-- R35, R218, R224: the row of an aligned 32-bit write at an offset of the register window. -/
def decodeWrite (top : Top) (offset : Nat) (w : Word) : Except Reject Instr :=
  if offset = ctrlOffset then .ok (decodeCtrl top w)
  else if offset = arg0Offset then .ok (.argWrite .arg0 w)
  else if offset = arg1Offset then .ok (.argWrite .arg1 w)
  else .error .ignoredWrite

/-- The decoder: total on every code, in every context. -/
def decode (c : Ctx) : Code → Except Reject Instr
  | .rx b =>
    if c.top = .receive ∧ (c.rxs = .polling ∨ c.rxs = .receiving) then decodeReceiver c (.byte b)
    else .error .notSampled
  | .tx b => decodeTx b
  | .write offset w => decodeWrite c.top offset w

/-- R90 to R103: the code of an instruction; `none` where its row has no encoding (the receiver's steps without a
byte, the internal operations, the sequencer's steps). Ignored bits are written as 0. -/
def encode : Instr → Option Code
  | .sohPolling | .sohReceiving => some (.rx sohByte)
  | .stxPolling | .stxReceiving => some (.rx stxByte)
  | .eotReceiving => some (.rx eotByte)
  | .otherPolling b | .otherReceiving b | .rxIndex b | .rxIndexInv b | .rxPayload b | .rxCrcHi b | .rxCrcLo b =>
    some (.rx b)
  | .txPoll => some (.tx pollByte)
  | .txAck => some (.tx ackByte)
  | .txNak => some (.tx nakByte)
  | .nop => some (.write ctrlOffset 0)
  | .cmdCrc => some (.write ctrlOffset 1)
  | .cmdCheck => some (.write ctrlOffset 2)
  | .cmdTrailer => some (.write ctrlOffset 3)
  | .cmdReserved low => some (.write ctrlOffset ((0b01#2 ++ low).setWidth 32))
  | .cmdReserved8F low => some (.write ctrlOffset ((0b1#1 ++ low).setWidth 32))
  | .cmdBusy cmd => some (.write ctrlOffset (cmd.setWidth 32))
  | .argWrite .arg0 w => some (.write arg0Offset w)
  | .argWrite .arg1 w => some (.write arg1Offset w)
  | .rxIdlePoll | .rxPollingTimeout | .rxPollingNothing | .rxPacketTimeout | .rxReceivingNothing | .rxDone
  | .crc16Step _ _ | .crc16 _ | .sessionErase | .program _ | .writeTrailer _ | .isAppValid
  | .seqCheck | .seqErase | .seqReceive | .seqFinish | .seqApp | .seqRestart => none

/-- The states of the control registers in which the table lets a row be taken: its columns RXS, OFFSET and TOP
(R92, R97, R214, R218, R222, R223). An internal operation, a transmitted byte, a NOP and an argument write are bound to none. -/
def trigger (c : Ctx) : Instr → Bool
  | .rxIdlePoll => c.top = .receive && c.rxs = .idle
  | .sohPolling | .stxPolling | .otherPolling _ | .rxPollingTimeout | .rxPollingNothing =>
    c.top = .receive && c.rxs = .polling
  | .sohReceiving | .stxReceiving | .eotReceiving | .otherReceiving _ =>
    c.top = .receive && c.rxs = .receiving && c.offset.toNat == 0
  | .rxIndex _ => c.top = .receive && c.rxs = .receiving && c.offset.toNat == 1
  | .rxIndexInv _ => c.top = .receive && c.rxs = .receiving && c.offset.toNat == 2
  | .rxPayload _ =>
    c.top = .receive && c.rxs = .receiving && decide (3 ≤ c.offset.toNat ∧ c.offset.toNat ≤ pktLen c.size + 2)
  | .rxCrcHi _ => c.top = .receive && c.rxs = .receiving && c.offset.toNat == pktLen c.size + 3
  | .rxCrcLo _ => c.top = .receive && c.rxs = .receiving && c.offset.toNat == pktLen c.size + 4
  | .rxPacketTimeout | .rxReceivingNothing => c.top = .receive && c.rxs = .receiving
  | .rxDone => c.top = .receive && c.rxs = .done
  | .cmdCrc | .cmdCheck | .cmdTrailer | .cmdReserved _ | .cmdReserved8F _ => c.top = .app
  | .cmdBusy _ => c.top ≠ .app
  | .seqCheck => c.top = .check
  | .seqErase => c.top = .erase
  | .seqReceive => c.top = .receive
  | .seqFinish => c.top = .finish
  | .seqApp => c.top = .app
  | .seqRestart => c.top = .restart
  | .txPoll | .txAck | .txNak | .nop | .argWrite _ _
  | .crc16Step _ _ | .crc16 _ | .sessionErase | .program _ | .writeTrailer _ | .isAppValid => true

/-- The instruction read from a word of the opcode table, whose rows do not say in their bits which of the three
alphabets (received byte, transmitted byte, command word) they belong to: the three transmitted
bytes of R99 are read as such, every other word as a write of `CTRL` in `TOP = APP` (R101).
DESIGN CHOICE: notes/assumptions/17.md. -/
def decodeTableWord (nbits w : Nat) : Option Instr :=
  if 2 ^ nbits ≤ w ∨ 4294967296 ≤ w then none
  else if w = pollByte.toNat ∨ w = ackByte.toNat ∨ w = nakByte.toNat then (decodeTx (BitVec.ofNat 8 w)).toOption
  else some (decodeCtrl .app (BitVec.ofNat 32 w))

end Sys2Proof
end

