-- ==== Sys2Proof/Config.lean ====
section
/-!
DEFINITION. What one implementation fixes: the parameters of spec/00_scope.md R10, as plain data that a
machine carries and never changes, the values R10 itself fixes, and the free values: constants
with no body, read where the environment's answer to a draw (R15) has not been written down in the state.
The functions over the parameters and the constraints of R11 stand in Machine/Params.lean.
-/

namespace Sys2Proof

/-- One piece of the flash's sector map: the bytes `[base, base + size)` belong to sector `number`.
R10 gives `sectorOf` as a total function from addresses; here it is a list of pieces. -/
structure Sector where
  base   : Nat
  size   : Nat
  number : Nat
deriving DecidableEq, Repr

/-- R10: the parameters the spec leaves OPEN. -/
structure Config where
  imgStart        : Nat
  imgEnd          : Nat
  writePage       : Nat
  sectors         : List Sector
  trailerUnit     : Nat
  pollTimeoutMs   : Nat
  packetTimeoutMs : Nat
  regBase         : Nat
deriving DecidableEq, Repr

/-- R10: one past the last address of the 32-bit flash space (`ADDR_W` = 32). -/
def Config.addrSpace : Nat := 4294967296

/-- spec/95_test_vectors.md section 0: the example configuration EX. `REG_BASE` and the two periods are
not given there. DESIGN CHOICE: notes/assumptions/2.md. -/
def Config.ex : Config where
  imgStart := 0x2000
  imgEnd := 0x4000
  writePage := 256
  sectors := [⟨0, 0x1000, 0⟩, ⟨0x1000, 0x1000, 1⟩, ⟨0x2000, 0x1000, 2⟩, ⟨0x3000, 0x1000, 3⟩,
    ⟨0x4000, 4294950912, 4⟩]
  trailerUnit := 0x1000
  pollTimeoutMs := 1000
  packetTimeoutMs := 1000
  regBase := 0x40000000

/-- The answer `ok` or `fail` of a flash request (R65, R66, R67), and of an operation that reports one. -/
inductive Answer where
  | ok
  | fail
deriving DecidableEq, Repr

/-- Free value (R15, U1, U2, U4): a byte nothing constrains, of a buffer at reset or of flash after a failed
request. notes/assumptions/5.md. -/
opaque Config.freeByte : Nat → Byte

/-- Free value (R15, U6): the answer of `Rx()`. notes/assumptions/4.md. -/
opaque Config.freeRx : Nat → Option Byte

/-- Free value (R249, U7, U8): the answer of `TimerExpired()` before the monotonicity rule is applied.
notes/assumptions/4.md. -/
opaque Config.freeTimer : Nat → Bool

/-- Free value (R65, R66, R67, U3): whether a prepare, erase or write request answers ok.
notes/assumptions/4.md. -/
opaque Config.freeOk : Nat → Bool

/-- Free value: which of the places that R184 leaves open `CURSOR` takes where an advance does not fit its 32 bits.
DESIGN CHOICE: notes/assumptions/9.md. -/
opaque Config.freeCursor : Nat → Nat

end Sys2Proof
end

