-- ==== Sys2Proof/Machine/State.lean ====
section
/-!
DEFINITION. The machine's state: the core's registers, flags and buffers (spec/10_state.md R20 to R36), the
environment state that rules read (R37), the draws and turns of the environment agents (spec/00_scope.md R9, R15) as plain
data, the reasons a step can stop, and the state after reset (R39, spec/70_reset_and_hazards.md R260).
-/

namespace Sys2Proof.Machine

/-- Flash (R37, R60): its bytes as (address, byte) pairs, addresses strictly rising, none holding the value an
unlisted address reads as (`unlistedByte` in Machine/Ops.lean; the form is `Memory.wf`). -/
abbrev Memory := List Host.Cell

/-- R67: the two buffers a flash request can take its bytes from. -/
inductive Buf where
  | pktbuf
  | scratch
deriving DecidableEq, Repr

/-- R14: the primitives, each an event of the history with its arguments and its answer. -/
inductive Event where
  | memRead (addr : Nat) (v : Byte)
  | flashPrepare (s0 s1 : Nat) (a : Answer)
  | flashErase (s0 s1 : Nat) (a : Answer)
  | flashWrite (addr : Nat) (buf : Buf) (n : Nat) (a : Answer)
  | flashCompare (addr : Nat) (buf : Buf) (n : Nat) (same : Bool)
  | tx (b : Byte)
  | timerStart (ms : Nat)
  | timerExpired (answer : Bool)
  | rx (answer : Option Byte)
  | bootApp
  | resetReq
deriving DecidableEq, Repr

/-- R37, R249: the one timer; its state is unspecified until the first `TimerStart` (`unstarted`), and after one it is
running or seen expired, with the period last started. -/
inductive Timer where
  | unstarted
  | running (ms : Nat)
  | expired (ms : Nat)
deriving DecidableEq, Repr

/-- R15: the answers the environment has already settled on for the next draws of each kind, oldest first (R104
`rx`, `idle`, `tick` and `flash <op> -> ok|fail`). A draw past the end of its list is a free
value of Config.lean applied to `count`, which then advances. notes/assumptions/4.md. -/
structure Draws where
  rx      : List (Option Byte)
  timer   : List Bool
  prepare : List Answer
  erase   : List Answer
  write   : List Answer
  bytes   : List Byte
  count   : Nat
deriving DecidableEq, Repr

/-- R9, R218: whose step can make flash requests: the core's own, and the host's write of a command. -/
inductive Requester where
  | core
  | hostWrite (addr width : Nat) (w : Word)
deriving DecidableEq, Repr

/-- R9, R214: who moves next. With no turn listed the core moves. notes/assumptions/6.md. -/
inductive Turn where
  /-- R214: the core takes its autonomous step. -/
  | core
  /-- R35, R36: a host write of `width` bytes at a bus address. -/
  | hostWrite (addr width : Nat) (w : Word)
  /-- R35, R36: a host read of `width` bytes at a bus address. -/
  | hostRead (addr width : Nat)
  /-- R80, R268: the host changes a byte of flash. -/
  | hostFlash (addr : Word) (b : Byte)
  /-- R260: the platform applies reset. -/
  | reset
  /-- R271, U24: the step named is taken, but power is lost in it, at the flash request that it sees answered fail.
  notes/assumptions/11.md. -/
  | powerLoss (during : Requester)
deriving DecidableEq, Repr

/-- The value an internal operation returns to its caller (R120, R121, R180, R181, R185, R210). -/
inductive Ret where
  | none
  | crc (c : Half)
  | answer (a : Answer)
  | verdict (valid : Bool)
deriving DecidableEq, Repr

/-- The whole machine, as plain data. -/
structure State where
  /-- R21 `TOP`. -/
  top : Top
  /-- R22 `RXS`. -/
  rxs : Rxs
  /-- R23 `OFFSET`. -/
  offset : BitVec 11
  /-- R24 `SIZE`. -/
  size : SizeClass
  /-- R25 `RXCRC`. -/
  rxcrc : Half
  /-- R26 `PKTNUM`. -/
  pktnum : Byte
  /-- R26 `PKTNUM_INV`. -/
  pktnumInv : Byte
  /-- R27 `CURSOR`. -/
  cursor : Word
  /-- R28 `ERASED`. -/
  erased : Bool
  /-- R29 `RESULT`. -/
  result : Half
  /-- R30 `TRAILER_RD`. -/
  trailerRd : Half
  /-- R31 `ARG0`. -/
  arg0 : Word
  /-- R31 `ARG1`. -/
  arg1 : Word
  /-- R32 `OK`. -/
  ok : Bool
  /-- R32 `APP_VALID`. -/
  appValid : Bool
  /-- R32 `MALFORMED`. -/
  malformed : Bool
  /-- R32 `PKT_TIMEOUT`. -/
  pktTimeout : Bool
  /-- R32 `CMD_ERR`. -/
  cmdErr : Bool
  /-- R32 `RESET_REQ`. -/
  resetReq : Bool
  /-- R33 `PKTBUF`. -/
  pktbuf : Vector Byte 1024
  /-- R34 `SCRATCH`, of `TRAILER_UNIT` bytes. -/
  scratch : List Byte
  /-- R10: the parameters; no step writes them. notes/assumptions/2.md. -/
  cfg : Config
  /-- R37 `FLASH`. -/
  flash : Memory
  /-- Flash cells that keep their value under every write and erase, none in a flash that keeps the contract of R66 and R67
  (spec/95_test_vectors.md V-P16). notes/assumptions/8.md. -/
  stuck : List Nat
  /-- R37 `TIMER`. -/
  timer : Timer
  /-- R14, R37: the event history, oldest first. -/
  history : List Event
  /-- R15: the environment's answers. The model's own field. notes/assumptions/4.md. -/
  draws : Draws
  /-- R9, R214: the turns to come. The model's own field. notes/assumptions/6.md. -/
  turns : List Turn
  /-- The value the last internal operation run by itself returned. The model's own field. notes/assumptions/12.md. -/
  ret : Ret
  /-- The word the last host read was answered with (R35). The model's own field, the host's side of the bus.
  notes/assumptions/7.md. -/
  hostRd : Word
deriving DecidableEq, Repr

/-- Why the machine stops with a fault. -/
inductive Fault where
  /-- Raised by SEQ_RECEIVE and RX_PAYLOAD where `OFFSET` stands at no byte the rule can take: past the last byte of the packet
  (R97 has no line for it; above 1028 also U18), or, for RX_PAYLOAD by itself, outside `3 .. N + 2`
  (R151). DEDUCED. SAFE: no rule gives the machine a next state there. notes/assumptions/10.md. -/
  | offsetOutOfPacket
deriving DecidableEq, Repr

/-- Why a step is refused. -/
inductive Refusal where
  /-- Raised by `exec` for an instruction that has no meaning yet; no arm raises it. SAFE. -/
  | notModelled (mnemonic : String)
  /-- Raised by `step` where the configuration breaks a constraint of R11 (U12: refuse). SAFE. -/
  | configNotAdmitted
  /-- Raised by `step` where another agent changes flash while `TOP ≠ APP` (R80, U25: the run is unmodelled). SAFE. -/
  | foreignFlashChange
deriving DecidableEq, Repr

/-- R39, R260: the machine right after reset. The example configuration (notes/assumptions/2.md), erased flash
(notes/assumptions/3.md), buffers of free bytes (R33, R34, notes/assumptions/5.md), and no turn and no
answer written down. -/
def State.reset : State where
  top := .check
  rxs := .idle
  offset := 0
  size := .short
  rxcrc := 0x0000
  pktnum := 0x00
  pktnumInv := 0x00
  cursor := BitVec.ofNat 32 Config.ex.imgStart
  erased := false
  result := 0x0000
  trailerRd := 0x0000
  arg0 := 0x00000000
  arg1 := 0x00000000
  ok := false
  appValid := false
  malformed := false
  pktTimeout := false
  cmdErr := false
  resetReq := false
  pktbuf := Vector.ofFn fun i => Config.freeByte i.val
  scratch := (List.range Config.ex.trailerUnit).map fun i => Config.freeByte (1024 + i)
  cfg := Config.ex
  flash := []
  stuck := []
  timer := .unstarted
  history := []
  draws := { rx := [], timer := [], prepare := [], erase := [], write := [], bytes := [],
             count := 1024 + Config.ex.trailerUnit }
  turns := []
  ret := .none
  hostRd := 0x00000000

end Sys2Proof.Machine
end

