-- ==== Sys2Proof/Machine/Params.lean ====
section
/-!
DEFINITION. The functions over the parameters (spec/00_scope.md R10): the sector map, the derived parameters, the
trailer's place (spec/20_memory.md R61, R62), and the constraints a configuration must meet (R11).
-/

namespace Sys2Proof.Machine

/-- R10 `sectorOf`: the number of the piece that holds the address. An admitted map covers the whole space, so
the 0 past its end is never read. -/
def sectorOf (c : Config) (a : Nat) : Nat :=
  match c.sectors.find? (fun p => p.base ≤ a && a < p.base + p.size) with
  | some p => p.number
  | none => 0

/-- R10 `SECTOR_FIRST`. -/
def sectorFirst (c : Config) : Nat := sectorOf c c.imgStart

/-- R10 `SECTOR_LAST`. -/
def sectorLast (c : Config) : Nat := sectorOf c (c.imgEnd - 1)

/-- R10 `TRAILER_SECTOR`. -/
def trailerSector (c : Config) : Nat := sectorOf c (c.imgEnd - 1)

/-- R185: the base of the erase unit that holds the trailer. -/
def trailerBase (c : Config) : Nat := c.imgEnd - c.trailerUnit

/-- R62, R71: the address of the trailer's low byte. -/
def trailerLoAddr (c : Config) : Nat := c.imgEnd - 4

/-- R62, R71: the address of the trailer's high byte. -/
def trailerHiAddr (c : Config) : Nat := c.imgEnd - 3

/-- R61: the length of the data span `[IMG_START, IMG_END - 4)`. -/
def dataLen (c : Config) : Nat := c.imgEnd - c.imgStart - 4

/-- R66: the address lies in one of the sectors `s0 .. s1`. -/
def inSectors (c : Config) (s0 s1 a : Nat) : Bool :=
  decide (s0 ≤ sectorOf c a) && decide (sectorOf c a ≤ s1)

/-- The sector map gives each address of the flash space one sector: its pieces follow one another from `at'` to
the end of the space (R10: `sectorOf` is total). -/
def tiles (at' : Nat) : List Sector → Bool
  | [] => at' == Config.addrSpace
  | p :: rest => p.base == at' && decide (0 < p.size) && tiles (p.base + p.size) rest

/-- The pieces numbered `s0 .. s1` lie in `[lo, hi)` and all others outside it: the bytes of those sectors are
exactly `[lo, hi)`. -/
def piecesAreExactly (c : Config) (s0 s1 lo hi : Nat) : Bool :=
  c.sectors.all fun p =>
    if s0 ≤ p.number ∧ p.number ≤ s1 then decide (lo ≤ p.base) && decide (p.base + p.size ≤ hi)
    else decide (p.base + p.size ≤ lo) || decide (hi ≤ p.base)

/-- The pieces that hold a byte of the image region. -/
def regionPieces (c : Config) : List Sector :=
  c.sectors.filter fun p => decide (p.base < c.imgEnd) && decide (c.imgStart < p.base + p.size)

/-- R11: the constraints 1 to 8, and that the sector map is total (R10). The constraints on the map are checked
piece by piece; Laws/Params.lean proves what they say of every address. -/
def admitted (c : Config) : Bool :=
  [128, 256, 512, 1024].contains c.writePage
  && decide (c.imgStart % c.writePage = 0)
  && decide ((c.imgEnd - c.imgStart) % c.writePage = 0)
  && (decide (c.imgStart < c.imgEnd) && decide (c.imgEnd ≤ Config.addrSpace))
  && (decide (4 ≤ c.trailerUnit) && decide (c.trailerUnit ≤ c.imgEnd - c.imgStart))
  && piecesAreExactly c (trailerSector c) (trailerSector c) (trailerBase c) c.imgEnd
  && piecesAreExactly c (sectorFirst c) (sectorLast c) c.imgStart c.imgEnd
  && decide ((regionPieces c).Pairwise fun p q => p.number ≤ q.number)
  && tiles 0 c.sectors

end Sys2Proof.Machine
end

