-- ==== Sys2Proof/Machine/Ops.lean ====
section
/-!
DEFINITION. The named operations over flash, the draws, the timer, the event history and the buffers: the
primitives of spec/00_scope.md R14 with the contracts of spec/20_memory.md R64 to R68 and
spec/60_exceptions.md R249, and reset (spec/70_reset_and_hazards.md R260). The block takes no exception (R240), so there is no exception entry.
-/

namespace Sys2Proof.Machine

/-- What an unlisted address reads as: the erased byte of R66. The spec gives flash no contents at
reset (R37). DESIGN CHOICE: notes/assumptions/3.md. -/
def unlistedByte : Byte := 0xFF

/-- The canonical form of flash: addresses strictly rising, no entry that reads as an unlisted address does. -/
abbrev Memory.wf (m : Memory) : Prop :=
  m.Pairwise (fun c d => c.1 < d.1) ∧ ∀ c ∈ m, c.2 ≠ unlistedByte

/-- R64: the byte flash holds at an address. -/
def Memory.read : Memory → Nat → Byte
  | [], _ => unlistedByte
  | c :: rest, a => if c.1 = a then c.2 else Memory.read rest a

/-- The bytes flash holds at `lo, lo + 1, …`, `n` of them (R73: ascending addresses). -/
def Memory.readRange (m : Memory) (lo n : Nat) : List Byte :=
  (List.range' lo n).map m.read

/-- R67: flash with the bytes at `lo, lo + 1, …` replaced, but for the cells in `stuck`, which keep theirs. -/
def Memory.patch (m : Memory) (stuck : List Nat) (lo : Nat) (bytes : List Byte) : Memory :=
  m.filter (fun c => decide (c.1 < lo))
  ++ (((List.range' lo bytes.length).zip bytes).map
        (fun c => (c.1, if c.1 ∈ stuck then m.read c.1 else c.2))).filter (fun c => decide (c.2 ≠ unlistedByte))
  ++ m.filter (fun c => decide (lo + bytes.length ≤ c.1))

/-- R66: flash with every byte of the sectors `s0 .. s1` erased, but for the cells in `stuck`. An erased byte is
an unlisted one. -/
def Memory.eraseSectors (m : Memory) (c : Config) (stuck : List Nat) (s0 s1 : Nat) : Memory :=
  m.filter (fun cell => decide (cell.1 ∈ stuck) || !inSectors c s0 s1 cell.1)

/-- R14, R37: one more event of the history. -/
def emit (e : Event) (s : State) : State :=
  { s with history := s.history ++ [e] }

/-- R15, R33, R66, R67: `n` bytes as draws: those written down in the state, then free values. -/
def drawBytes (n : Nat) (s : State) : List Byte × State :=
  let given := s.draws.bytes.take n
  let free := (List.range (n - given.length)).map fun i => Config.freeByte (s.draws.count + i)
  (given ++ free,
    { s with draws := { s.draws with bytes := s.draws.bytes.drop n, count := s.draws.count + (n - given.length) } })

/-- The free answer of a flash request (R65, R66, R67). -/
def freeAnswer (k : Nat) : Answer :=
  if Config.freeOk k then .ok else .fail

/-- R65: the draw that answers a prepare request. -/
def drawPrepare (s : State) : Answer × State :=
  match s.draws.prepare with
  | a :: rest => (a, { s with draws := { s.draws with prepare := rest } })
  | [] => (freeAnswer s.draws.count, { s with draws := { s.draws with count := s.draws.count + 1 } })

/-- R66: the draw that answers an erase request. -/
def drawErase (s : State) : Answer × State :=
  match s.draws.erase with
  | a :: rest => (a, { s with draws := { s.draws with erase := rest } })
  | [] => (freeAnswer s.draws.count, { s with draws := { s.draws with count := s.draws.count + 1 } })

/-- R67: the draw that answers a write request. -/
def drawWrite (s : State) : Answer × State :=
  match s.draws.write with
  | a :: rest => (a, { s with draws := { s.draws with write := rest } })
  | [] => (freeAnswer s.draws.count, { s with draws := { s.draws with count := s.draws.count + 1 } })

/-- R15: the draw that answers `Rx()`. -/
def drawRx (s : State) : Option Byte × State :=
  match s.draws.rx with
  | a :: rest => (a, { s with draws := { s.draws with rx := rest } })
  | [] => (Config.freeRx s.draws.count, { s with draws := { s.draws with count := s.draws.count + 1 } })

/-- R249: the draw behind an answer of `TimerExpired()`. -/
def drawTimer (s : State) : Bool × State :=
  match s.draws.timer with
  | a :: rest => (a, { s with draws := { s.draws with timer := rest } })
  | [] => (Config.freeTimer s.draws.count, { s with draws := { s.draws with count := s.draws.count + 1 } })

/-- R64 `MemRead(a, 1)` for the `n` addresses from `lo` up, in ascending order, each an event. -/
def memReadRange (lo n : Nat) (s : State) : List Byte × State :=
  (s.flash.readRange lo n,
    { s with history := s.history ++ (List.range' lo n).map fun a => Event.memRead a (s.flash.read a) })

/-- R64 `MemRead(addr, 1)`. -/
def memRead (addr : Nat) (s : State) : Byte × State :=
  (s.flash.read addr, emit (.memRead addr (s.flash.read addr)) s)

/-- R65 `FlashPrepare(s0, s1)`: a draw; no byte changes. -/
def flashPrepare (s0 s1 : Nat) (s : State) : Answer × State :=
  match drawPrepare s with
  | (a, s) => (a, emit (.flashPrepare s0 s1 a) s)

/-- R66, on fail: every byte of one piece of the map becomes a draw. -/
def scramblePiece (s : State) (p : Sector) : State :=
  match drawBytes p.size s with
  | (bytes, s) => { s with flash := s.flash.patch s.stuck p.base bytes }

/-- R66, on fail: every byte of the sectors `s0 .. s1` becomes a draw. -/
def scrambleSectors (s0 s1 : Nat) (s : State) : State :=
  (s.cfg.sectors.filter fun p => decide (s0 ≤ p.number) && decide (p.number ≤ s1)).foldl scramblePiece s

/-- R66 `FlashErase(s0, s1)`: a draw; on ok the sectors read 0xFF, on fail their bytes are draws. -/
def flashErase (s0 s1 : Nat) (s : State) : Answer × State :=
  match drawErase s with
  | (.ok, s) =>
    (.ok, emit (.flashErase s0 s1 .ok) { s with flash := s.flash.eraseSectors s.cfg s.stuck s0 s1 })
  | (.fail, s) => (.fail, emit (.flashErase s0 s1 .fail) (scrambleSectors s0 s1 s))

/-- The bytes of a buffer, from index 0. -/
def bufBytes (buf : Buf) (s : State) : List Byte :=
  match buf with
  | .pktbuf => s.pktbuf.toList
  | .scratch => s.scratch

/-- R67 `FlashWrite(addr, buf, n)`: a draw; on ok the bytes are written, on fail they are draws. -/
def flashWrite (addr : Nat) (buf : Buf) (n : Nat) (s : State) : Answer × State :=
  match drawWrite s with
  | (.ok, s) =>
    (.ok, emit (.flashWrite addr buf n .ok) { s with flash := s.flash.patch s.stuck addr ((bufBytes buf s).take n) })
  | (.fail, s) =>
    match drawBytes n s with
    | (bytes, s) => (.fail, emit (.flashWrite addr buf n .fail) { s with flash := s.flash.patch s.stuck addr bytes })

/-- R68 `FlashCompare(addr, buf, n)`: whether flash holds the buffer's first `n` bytes; no byte changes. -/
def flashCompare (addr : Nat) (buf : Buf) (n : Nat) (s : State) : Bool × State :=
  let same := decide (s.flash.readRange addr n = (bufBytes buf s).take n)
  (same, emit (.flashCompare addr buf n same) s)

/-- R14 `Tx(b)`. -/
def transmit (b : Byte) (s : State) : State :=
  emit (.tx b) s

/-- R249 `TimerStart(ms)`. -/
def timerStart (ms : Nat) (s : State) : State :=
  emit (.timerStart ms) { s with timer := .running ms }

/-- R249: the timer after a call of `TimerExpired()` that answered `a`. -/
def timerAfter (a : Bool) : Timer → Timer
  | .unstarted => .unstarted
  | .running ms => if a then .expired ms else .running ms
  | .expired ms => .expired ms

/-- R249: the timer has answered true since it was last started. -/
def Timer.latched : Timer → Bool
  | .unstarted | .running _ => false
  | .expired _ => true

/-- R249 `TimerExpired()`: a draw, but true at every call after it was once true, until the next `TimerStart`. -/
def timerExpired (s : State) : Bool × State :=
  match drawTimer s with
  | (d, s) =>
    let a := s.timer.latched || d
    (a, emit (.timerExpired a) { s with timer := timerAfter a s.timer })

/-- R14 `Rx()`. -/
def rxSample (s : State) : Option Byte × State :=
  match drawRx s with
  | (a, s) => (a, emit (.rx a) s)

/-- R140: what a sampling receiver step finds. `TimerExpired` is called only where `Rx` answers none. -/
def sampleLine (s : State) : Sample × State :=
  match rxSample s with
  | (some b, s) => (.byte b, s)
  | (none, s) =>
    match timerExpired s with
    | (true, s) => (.expired, s)
    | (false, s) => (.quiet, s)

/-- R184: the `k`-th, counted round, of the places `CURSOR` may take from `at'` on: whole write pages further, and below
the end of the 32-bit space. -/
def cursorPlace (c : Config) (at' k : Nat) : Nat :=
  at' + k % ((Config.addrSpace - at') / c.writePage) * c.writePage

/-- R181: `CURSOR` advanced by the written length. Where the sum does not fit 32 bits (R27) the place is a free value
within the limits of R184. DESIGN CHOICE: notes/assumptions/9.md. -/
def advanceCursor (len : Nat) (s : State) : State :=
  if s.cursor.toNat + len < Config.addrSpace then { s with cursor := BitVec.ofNat 32 (s.cursor.toNat + len) }
  else { s with
    cursor := BitVec.ofNat 32 (cursorPlace s.cfg s.cursor.toNat (Config.freeCursor s.draws.count)),
    draws := { s.draws with count := s.draws.count + 1 } }

/-- R33, R94, R151: one payload byte into `PKTBUF`. -/
def storePayload (j : Nat) (b : Byte) (s : State) : State :=
  { s with pktbuf := s.pktbuf.setIfInBounds j b }

/-- A list of drawn bytes as the 1024 bytes of `PKTBUF` (R33). -/
def asPktbuf (bytes : List Byte) : Vector Byte 1024 :=
  Vector.ofFn fun i => bytes.getD i.val unlistedByte

/-- R212: session start. -/
def sessionStart (s : State) : State :=
  { s with rxs := .idle, offset := 0, cursor := BitVec.ofNat 32 s.cfg.imgStart, erased := false,
           malformed := false, pktTimeout := false }

/-- R39, R260: reset applied to a running machine. The buffers' bytes are draws, the history is empty, the timer
is unstarted; flash, the parameters and the environment's agenda stay. -/
def applyReset (s : State) : State :=
  match drawBytes 1024 s with
  | (buf, s) =>
    match drawBytes s.cfg.trailerUnit s with
    | (scr, s) =>
      { s with
        top := .check, rxs := .idle, offset := 0, size := .short, rxcrc := 0, pktnum := 0, pktnumInv := 0,
        cursor := BitVec.ofNat 32 s.cfg.imgStart, erased := false, result := 0, trailerRd := 0,
        arg0 := 0, arg1 := 0,
        ok := false, appValid := false, malformed := false, pktTimeout := false, cmdErr := false, resetReq := false,
        pktbuf := asPktbuf buf, scratch := scr,
        timer := .unstarted, history := [], ret := .none }

/-- R271, U24: power is lost in a step, which is answered as `o`: the bytes of its interrupted request are the draws that a
request answered fail leaves (R66, R67), nothing follows it, and the machine is reset. DEDUCED: notes/assumptions/11.md. -/
def losePower (o : Host.Outcome State Fault Refusal) : Host.Outcome State Fault Refusal :=
  match o with
  | .next t => .next (applyReset t)
  | .fault r => .fault r
  | .refused r => .refused r

end Sys2Proof.Machine
end

