-- ==== Sys2Proof/Machine/Flags.lean ====
section
/-!
DEFINITION. The status flags (spec/10_state.md R32): how each is set and cleared, and `BUSY` (R35).
-/

namespace Sys2Proof.Machine

/-- R32, D42 `OK`: the outcome of an operation that reports one. -/
def setOk (a : Answer) (s : State) : State :=
  { s with ok := decide (a = .ok) }

/-- R32 `APP_VALID`: the result of a boot decision. -/
def setAppValid (valid : Bool) (s : State) : State :=
  { s with appValid := valid }

/-- R32, R148 `MALFORMED <- 1`. -/
def setMalformed (s : State) : State :=
  { s with malformed := true }

/-- R32, R154 `PKT_TIMEOUT <- 1`. -/
def setPktTimeout (s : State) : State :=
  { s with pktTimeout := true }

/-- R32, R222, R223 `CMD_ERR <- 1`. -/
def setCmdErr (s : State) : State :=
  { s with cmdErr := true }

/-- R32, R218 `CMD_ERR <- 0`. -/
def clearCmdErr (s : State) : State :=
  { s with cmdErr := false }

/-- R32, R215 `RESET_REQ <- 1`. -/
def setResetReq (s : State) : State :=
  { s with resetReq := true }

/-- R35 `BUSY`: not stored; 1 when `TOP ≠ APP`. -/
def busy (s : State) : Bool :=
  decide (s.top ≠ .app)

end Sys2Proof.Machine
end

