-- ==== Sys2Proof/Machine/Operands.lean ====
section
/-!
DEFINITION. Operand assembly and the register window: the 16-bit values built from two bytes (spec/20_memory.md R62,
R71, spec/30_encoding.md R95), the command operands (R102), and what a host access of the window reads
and where it writes (spec/10_state.md R35, R36).
-/

namespace Sys2Proof.Machine

/-- R62, R71: the trailer value of its two bytes, low byte first. -/
def trailerValue (lo hi : Byte) : Half := hi ++ lo

/-- R71, R100: the low byte of a 16-bit value. -/
def loByte (v : Half) : Byte := v.extractLsb' 0 8

/-- R71, R100: the high byte of a 16-bit value. -/
def hiByte (v : Half) : Byte := v.extractLsb' 8 8

/-- R152: `RXCRC[15:8] <- b`. -/
def withCrcHi (v : Half) (b : Byte) : Half := b ++ loByte v

/-- R153: `RXCRC[7:0] <- b`. -/
def withCrcLo (v : Half) (b : Byte) : Half := hiByte v ++ b

/-- R102, R186: the trailer operand `ARG0[15:0]`. -/
def trailerOperand (w : Word) : Half := w.extractLsb' 0 16

/-- R21: the encoding of `TOP`. -/
def topCode : Top → BitVec 3
  | .check => 0
  | .app => 1
  | .erase => 2
  | .receive => 3
  | .finish => 4
  | .restart => 5

/-- R22: the encoding of `RXS`. -/
def rxsCode : Rxs → BitVec 2
  | .idle => 0
  | .polling => 1
  | .receiving => 2
  | .done => 3

/-- R24: the encoding of `SIZE`. -/
def sizeCode : SizeClass → BitVec 1
  | .short => 0
  | .long => 1

/-- A flag as one bit. -/
def bit (b : Bool) : BitVec 1 := BitVec.ofBool b

/-- R35: the word `STATUS`, from bit 31 down. -/
def statusWord (s : State) : Word :=
  0#17 ++ sizeCode s.size ++ rxsCode s.rxs ++ 0#1 ++ topCode s.top
  ++ bit s.erased ++ bit s.resetReq ++ bit s.cmdErr ++ bit s.pktTimeout ++ bit s.malformed
  ++ bit s.appValid ++ bit s.ok ++ bit (busy s)

/-- R35: the word at an offset of the register window; `CTRL` and the reserved words read 0. -/
def windowWord (s : State) (offset : Nat) : Word :=
  if offset = 0x04 then statusWord s
  else if offset = arg0Offset then s.arg0
  else if offset = arg1Offset then s.arg1
  else if offset = 0x10 then s.result.setWidth 32
  else if offset = 0x14 then s.cursor
  else if offset = 0x18 then s.offset.setWidth 32
  else if offset = 0x1C then s.rxcrc.setWidth 32
  else if offset = 0x20 then (s.pktnumInv ++ s.pktnum).setWidth 32
  else if offset = 0x24 then s.trailerRd.setWidth 32
  else 0

/-- R35, R36: the offset of an access in the 64-byte window, where it is an aligned 32-bit access of it.
notes/assumptions/7.md. -/
def windowOffset (c : Config) (addr width : Nat) : Option Nat :=
  if width = 4 ∧ c.regBase ≤ addr ∧ addr < c.regBase + 64 ∧ (addr - c.regBase) % 4 = 0 then some (addr - c.regBase)
  else none

/-- R35, R36: the word a host read is answered with; 0 for an access that is not aligned and 32 bits wide. -/
def hostReadWord (s : State) (addr width : Nat) : Word :=
  match windowOffset s.cfg addr width with
  | some offset => windowWord s offset
  | none => 0

/-- R35, R36: the instruction a host write stands for; none where the write is ignored. -/
def hostWriteInstr (s : State) (addr width : Nat) (w : Word) : Option Instr :=
  match windowOffset s.cfg addr width with
  | some offset => (decodeWrite s.top offset w).toOption
  | none => none

end Sys2Proof.Machine
end

