-- ==== Sys2Proof/Machine/Checksum.lean ====
section
/-!
DEFINITION. The CRC-16 checksum engine (spec/40_checksum.md R120, R121, R124, R125): CRC16_STEP, CRC16, the image
checksum, and CMD_CRC with the gate of R218 that every command passes.
-/

namespace Sys2Proof.Machine

/-- R120: one shift of the loop. The feedback bit is the register's top bit XOR the input bit. -/
def crcShift (c : Half) (inBit : Bool) : Half :=
  if c.msb ^^ inBit then (c <<< 1) ^^^ 0x1021 else c <<< 1

/-- R120 `CRC16_STEP(c, b)`: eight shifts, bit 7 of the byte first. -/
def crcStep (c : Half) (b : Byte) : Half :=
  [7, 6, 5, 4, 3, 2, 1, 0].foldl (fun c i => crcShift c (b.getLsbD i)) c

/-- R123: the fold of R121 started at `c`. -/
def crcFrom (c : Half) (bytes : List Byte) : Half :=
  bytes.foldl crcStep c

/-- R121 `CRC16(s)`. -/
def crcOf (bytes : List Byte) : Half :=
  crcFrom 0x0000 bytes

/-- R124 path 2, R125: the CRC of the `n` flash bytes from `lo` up, each read once. -/
def crcOfFlash (lo n : Nat) (s : State) : Half × State :=
  match memReadRange lo n s with
  | (bytes, s) => (crcOf bytes, s)

/-- R124: the image checksum, over `[IMG_START, IMG_END - 4)`. -/
def imageChecksum (s : State) : Half × State :=
  crcOfFlash s.cfg.imgStart (dataLen s.cfg) s

/-- R218: a command other than NOP: busy unless `TOP = APP`, else accepted, with `CMD_ERR` cleared. -/
def asCommand (run : State → State) (s : State) : State :=
  if s.top = .app then run (clearCmdErr s) else setCmdErr s

/-- R125: the body of CMD_CRC. -/
def crcCommand (s : State) : State :=
  if s.arg0.toNat < s.cfg.imgStart ∨ s.cfg.imgEnd < s.arg0.toNat + s.arg1.toNat then setOk .fail s
  else
    match crcOfFlash s.arg0.toNat s.arg1.toNat s with
    | (c, s) => setOk .ok { s with result := c }

/-- CRC16_STEP, R120: the register after one byte, returned. -/
def execCrc16Step (c : Half) (b : Byte) (s : State) : Host.Outcome State Fault Refusal :=
  .next { s with ret := .crc (crcStep c b) }

/-- CRC16, R121: the checksum of a byte sequence, returned. -/
def execCrc16 (bytes : List Byte) (s : State) : Host.Outcome State Fault Refusal :=
  .next { s with ret := .crc (crcOf bytes) }

/-- CMD_CRC, R125. -/
def execCmdCrc (s : State) : Host.Outcome State Fault Refusal :=
  .next (asCommand crcCommand s)

end Sys2Proof.Machine
end

