-- ==== Sys2Proof/Machine/Programmer.lean ====
section
/-!
DEFINITION. The flash programmer sequencer (spec/42_flash_programmer.md R180, R181, R182, R185, R186): SESSION_ERASE,
PROGRAM, WRITE_TRAILER and CMD_TRAILER. An operation stops at its first failed request.
-/

namespace Sys2Proof.Machine

/-- R180, R181, R185: an operation that fails clears `OK` and returns fail. -/
def failed (s : State) : Answer × State :=
  (.fail, setOk .fail s)

/-- An operation goes on after a request that answered ok and stops at the first that failed (R180, R181, R185,
R243 point 2). -/
def andThen (r : Answer × State) (rest : State → Answer × State) : Answer × State :=
  if r.1 = .ok then rest r.2 else failed r.2

/-- R180 `SESSION_ERASE()`. -/
def sessionErase (s : State) : Answer × State :=
  andThen (flashPrepare (sectorFirst s.cfg) (sectorLast s.cfg) s) fun s =>
  andThen (flashErase (sectorFirst s.cfg) (sectorLast s.cfg) s) fun s =>
  (.ok, setOk .ok { s with erased := true })

/-- R182: the clamp. -/
def clampLen (c : Config) (n : Nat) : Nat :=
  max n c.writePage

/-- R181: the compare of a write, as a request that answers ok on a match. -/
def verify (len : Nat) (s : State) : Answer × State :=
  match flashCompare s.cursor.toNat .pktbuf len s with
  | (same, s) => (if same then .ok else .fail, s)

/-- R181, from the prepare on: write, compare and advance. -/
def writeVerified (len : Nat) (s : State) : Answer × State :=
  andThen (flashPrepare (sectorFirst s.cfg) (sectorLast s.cfg) s) fun s =>
  andThen (flashWrite s.cursor.toNat .pktbuf len s) fun s =>
  andThen (verify len s) fun s =>
  (.ok, setOk .ok (advanceCursor len s))

/-- R181: the erase a session still owes. -/
def eraseIfOwed (s : State) : Answer × State :=
  if s.erased then (.ok, s) else sessionErase s

/-- R181 `PROGRAM(n)`. -/
def program (n : Nat) (s : State) : Answer × State :=
  if s.cfg.imgEnd < s.cursor.toNat + clampLen s.cfg n then failed s
  else andThen (eraseIfOwed s) fun s => writeVerified (clampLen s.cfg n) s

/-- R185: the scratch buffer of the trailer patch: the unit's bytes with the trailer half-word replaced. -/
def patchedUnit (c : Config) (v : Half) (unit : List Byte) : List Byte :=
  (unit.set (c.trailerUnit - 4) (loByte v)).set (c.trailerUnit - 3) (hiByte v)

/-- R185: the reads that copy the trailer's erase unit into `SCRATCH`, and the patch. -/
def copyUnit (v : Half) (s : State) : State :=
  match memReadRange (trailerBase s.cfg) s.cfg.trailerUnit s with
  | (bytes, s) => { s with scratch := patchedUnit s.cfg v bytes }

/-- R185, from the first prepare on: erase the trailer's sector and write the scratch buffer back. -/
def rewriteUnit (s : State) : Answer × State :=
  andThen (flashPrepare (trailerSector s.cfg) (trailerSector s.cfg) s) fun s =>
  andThen (flashErase (trailerSector s.cfg) (trailerSector s.cfg) s) fun s =>
  andThen (flashPrepare (trailerSector s.cfg) (trailerSector s.cfg) s) fun s =>
  andThen (flashWrite (trailerBase s.cfg) .scratch s.cfg.trailerUnit s) fun s =>
  (.ok, setOk .ok s)

/-- R185 `WRITE_TRAILER(v)`. -/
def writeTrailer (v : Half) (s : State) : Answer × State :=
  rewriteUnit (copyUnit v s)

/-- An internal operation run by itself: its effect, and its answer returned. -/
def returning (r : Answer × State) : State :=
  { r.2 with ret := .answer r.1 }

/-- SESSION_ERASE, R180. -/
def execSessionErase (s : State) : Host.Outcome State Fault Refusal :=
  .next (returning (sessionErase s))

/-- PROGRAM, R181. -/
def execProgram (size : SizeClass) (s : State) : Host.Outcome State Fault Refusal :=
  .next (returning (program (pktLen size) s))

/-- WRITE_TRAILER, R185. -/
def execWriteTrailer (v : Half) (s : State) : Host.Outcome State Fault Refusal :=
  .next (returning (writeTrailer v s))

/-- CMD_TRAILER, R186. -/
def execCmdTrailer (s : State) : Host.Outcome State Fault Refusal :=
  .next (asCommand (fun s => (writeTrailer (trailerOperand s.arg0) s).2) s)

end Sys2Proof.Machine
end

