-- ==== Sys2Proof/Machine/Receiver.lean ====
section
/-!
DEFINITION. The XMODEM-1K packet receiver (spec/41_receiver.md R140 to R157) and the transmitted bytes
(spec/30_encoding.md R99): one meaning per row of the receiver's part of the table, and the receiver step that chooses among them.
-/

namespace Sys2Proof.Machine

/-- R141, R144: send the poll byte and start the poll timer. -/
def sendPoll (s : State) : State :=
  timerStart s.cfg.pollTimeoutMs (transmit pollByte s)

/-- R142, R146: a start marker opens a packet. -/
def openPacket (size : SizeClass) (s : State) : State :=
  timerStart s.cfg.packetTimeoutMs { s with size := size, offset := 1 }

/-- R142: the first packet, which also leaves `POLLING`. -/
def openFirstPacket (size : SizeClass) (s : State) : State :=
  { openPacket size s with rxs := .receiving }

/-- R153: the reply to a packet whose CRC matched, by the consumer's answer (R159). -/
def replyTo (r : Answer × State) : State :=
  match r with
  | (.ok, s) => transmit ackByte s
  | (.fail, s) => transmit nakByte s

/-- R153: verify, consume and reply, with `RXCRC` complete. -/
def closePacket (s : State) : State :=
  if crcOf (s.pktbuf.toList.take (pktLen s.size)) = s.rxcrc then replyTo (program (pktLen s.size) s)
  else transmit nakByte s

/-- RX_IDLE_POLL, R141. -/
def execRxIdlePoll (s : State) : Host.Outcome State Fault Refusal :=
  .next { sendPoll s with rxs := .polling }

/-- SOH@POLLING, R142. -/
def execSohPolling (s : State) : Host.Outcome State Fault Refusal :=
  .next (openFirstPacket .short s)

/-- STX@POLLING, R142. -/
def execStxPolling (s : State) : Host.Outcome State Fault Refusal :=
  .next (openFirstPacket .long s)

/-- OTHER@POLLING, R143: the byte is dropped. -/
def execOtherPolling (s : State) : Host.Outcome State Fault Refusal :=
  .next s

/-- RX_POLLING_TIMEOUT, R144. -/
def execRxPollingTimeout (s : State) : Host.Outcome State Fault Refusal :=
  .next (sendPoll s)

/-- RX_POLLING_NOTHING, R145. -/
def execRxPollingNothing (s : State) : Host.Outcome State Fault Refusal :=
  .next s

/-- SOH@RECEIVING, R146. -/
def execSohReceiving (s : State) : Host.Outcome State Fault Refusal :=
  .next (openPacket .short s)

/-- STX@RECEIVING, R146. -/
def execStxReceiving (s : State) : Host.Outcome State Fault Refusal :=
  .next (openPacket .long s)

/-- EOT@RECEIVING, R147. -/
def execEotReceiving (s : State) : Host.Outcome State Fault Refusal :=
  .next { transmit ackByte s with rxs := .done, top := .finish }

/-- OTHER@RECEIVING, R148: the byte is dropped, the flag set. -/
def execOtherReceiving (s : State) : Host.Outcome State Fault Refusal :=
  .next (setMalformed s)

/-- RX_INDEX, R149. -/
def execRxIndex (b : Byte) (s : State) : Host.Outcome State Fault Refusal :=
  .next { s with pktnum := b, offset := 2 }

/-- RX_INDEX_INV, R150. -/
def execRxIndexInv (b : Byte) (s : State) : Host.Outcome State Fault Refusal :=
  .next { s with pktnumInv := b, offset := 3 }

/-- RX_PAYLOAD, R151, at an offset of the payload. At another offset the rule gives no effect:
notes/assumptions/10.md. -/
def execRxPayload (b : Byte) (s : State) : Host.Outcome State Fault Refusal :=
  if 3 ≤ s.offset.toNat ∧ s.offset.toNat ≤ pktLen s.size + 2 then
    .next { storePayload (s.offset.toNat - 3) b s with offset := s.offset + 1 }
  else .fault .offsetOutOfPacket

/-- RX_CRC_HI, R152. -/
def execRxCrcHi (b : Byte) (s : State) : Host.Outcome State Fault Refusal :=
  .next { s with rxcrc := withCrcHi s.rxcrc b, offset := BitVec.ofNat 11 (pktLen s.size + 4) }

/-- RX_CRC_LO, R153. -/
def execRxCrcLo (b : Byte) (s : State) : Host.Outcome State Fault Refusal :=
  .next { closePacket { s with rxcrc := withCrcLo s.rxcrc b } with offset := 0 }

/-- RX_PACKET_TIMEOUT, R154. -/
def execRxPacketTimeout (s : State) : Host.Outcome State Fault Refusal :=
  .next (setPktTimeout s)

/-- RX_RECEIVING_NOTHING, R155. -/
def execRxReceivingNothing (s : State) : Host.Outcome State Fault Refusal :=
  .next s

/-- RX_DONE, R156: no step, no byte. -/
def execRxDone (s : State) : Host.Outcome State Fault Refusal :=
  .next s

/-- TX_POLL, R99, R141. -/
def execTxPoll (s : State) : Host.Outcome State Fault Refusal :=
  .next (transmit pollByte s)

/-- TX_ACK, R99, R153. -/
def execTxAck (s : State) : Host.Outcome State Fault Refusal :=
  .next (transmit ackByte s)

/-- TX_NAK, R99, R153. -/
def execTxNak (s : State) : Host.Outcome State Fault Refusal :=
  .next (transmit nakByte s)

/-- R97, R140: a `POLLING` step, by what it found on the line. -/
def pollingStep (x : Sample) (s : State) : Host.Outcome State Fault Refusal :=
  match x with
  | .byte b =>
    if b = sohByte then execSohPolling s
    else if b = stxByte then execStxPolling s
    else execOtherPolling s
  | .expired => execRxPollingTimeout s
  | .quiet => execRxPollingNothing s

/-- R97: a byte at offset 0 of `RECEIVING`. -/
def leadingByte (b : Byte) (s : State) : Host.Outcome State Fault Refusal :=
  if b = sohByte then execSohReceiving s
  else if b = stxByte then execStxReceiving s
  else if b = eotByte then execEotReceiving s
  else execOtherReceiving s

/-- R92, R97: a byte in `RECEIVING`, by its position. -/
def receivedByte (b : Byte) (s : State) : Host.Outcome State Fault Refusal :=
  if s.offset.toNat = 0 then leadingByte b s
  else if s.offset.toNat = 1 then execRxIndex b s
  else if s.offset.toNat = 2 then execRxIndexInv b s
  else if s.offset.toNat ≤ pktLen s.size + 2 then execRxPayload b s
  else if s.offset.toNat = pktLen s.size + 3 then execRxCrcHi b s
  else if s.offset.toNat = pktLen s.size + 4 then execRxCrcLo b s
  else .fault .offsetOutOfPacket

/-- R97, R140: a `RECEIVING` step, by what it found on the line. -/
def receivingStep (x : Sample) (s : State) : Host.Outcome State Fault Refusal :=
  match x with
  | .byte b => receivedByte b s
  | .expired => execRxPacketTimeout s
  | .quiet => execRxReceivingNothing s

/-- SEQ_RECEIVE, R140: the receiver step. -/
def execSeqReceive (s : State) : Host.Outcome State Fault Refusal :=
  match s.rxs with
  | .idle => execRxIdlePoll s
  | .polling => pollingStep (sampleLine s).1 (sampleLine s).2
  | .receiving => receivingStep (sampleLine s).1 (sampleLine s).2
  | .done => execRxDone s

end Sys2Proof.Machine
end

