-- ==== Sys2Proof/Machine/Boot.lean ====
section
/-!
DEFINITION. The boot-decision comparator and the top-level sequencer (spec/43_boot_decision.md R210 to R217).
-/

namespace Sys2Proof.Machine

/-- R210: the two reads of the trailer, into `TRAILER_RD`. -/
def readTrailer (s : State) : Half × State :=
  match memRead (trailerLoAddr s.cfg) s with
  | (lo, s) =>
    match memRead (trailerHiAddr s.cfg) s with
    | (hi, s) => (trailerValue lo hi, { s with trailerRd := trailerValue lo hi })

/-- R10 `ERASED16`, R100: the trailer value that means no image. -/
def erased16 : Half := 0xFFFF

/-- R210: the full path: the image checksum into `RESULT`, compared with the trailer. -/
def compareImage (t : Half) (s : State) : Bool × State :=
  match imageChecksum s with
  | (c, s) => (decide (c = t), setAppValid (decide (c = t)) { s with result := c })

/-- R210 `IS_APP_VALID()`. -/
def isAppValid (s : State) : Bool × State :=
  match readTrailer s with
  | (t, s) => if t = erased16 then (false, setAppValid false s) else compareImage t s

/-- IS_APP_VALID, R210: its effect, and its answer returned. -/
def execIsAppValid (s : State) : Host.Outcome State Fault Refusal :=
  .next { (isAppValid s).2 with ret := .verdict (isAppValid s).1 }

/-- CMD_CHECK, R221. -/
def execCmdCheck (s : State) : Host.Outcome State Fault Refusal :=
  .next (asCommand (fun s => (isAppValid s).2) s)

/-- SEQ_CHECK, R211. -/
def execSeqCheck (s : State) : Host.Outcome State Fault Refusal :=
  match isAppValid s with
  | (true, s) => .next { emit .bootApp s with top := .app }
  | (false, s) => .next { s with top := .erase }

/-- SEQ_ERASE, R212, R213: `TOP` becomes `RECEIVE` whether the erase succeeds or not. -/
def execSeqErase (s : State) : Host.Outcome State Fault Refusal :=
  .next { (sessionErase (sessionStart s)).2 with top := .receive }

/-- R215: the final checksum into `RESULT`, and the trailer patch with it. -/
def finishImage (s : State) : State :=
  match imageChecksum s with
  | (c, s) => (writeTrailer c { s with result := c }).2

/-- SEQ_FINISH, R215. -/
def execSeqFinish (s : State) : Host.Outcome State Fault Refusal :=
  .next { setResetReq (emit .resetReq (finishImage s)) with top := .restart }

/-- SEQ_APP, R217: no autonomous step; the core waits for host commands. -/
def execSeqApp (s : State) : Host.Outcome State Fault Refusal :=
  .next s

/-- SEQ_RESTART, R216: no autonomous step; the core waits for reset. -/
def execSeqRestart (s : State) : Host.Outcome State Fault Refusal :=
  .next s

end Sys2Proof.Machine
end

