-- ==== Sys2Proof/Machine/Commands.lean ====
section
/-!
DEFINITION. The host's writes that run no unit (spec/43_boot_decision.md R218, R219, R222, R223, R224): NOP, the
reserved codes, a command while busy, and the argument writes.
-/

namespace Sys2Proof.Machine

/-- NOP, R219. -/
def execNop (s : State) : Host.Outcome State Fault Refusal :=
  .next s

/-- CMD_RESERVED, R222: codes 0x4 to 0x7. -/
def execCmdReserved (s : State) : Host.Outcome State Fault Refusal :=
  .next (setCmdErr s)

/-- CMD_RESERVED_8_F, R222: codes 0x8 to 0xF. -/
def execCmdReserved8F (s : State) : Host.Outcome State Fault Refusal :=
  .next (setCmdErr s)

/-- CMD_BUSY, R223: nothing is executed. -/
def execCmdBusy (s : State) : Host.Outcome State Fault Refusal :=
  .next (setCmdErr s)

/-- ARG_WRITE, R224. -/
def execArgWrite (reg : ArgReg) (w : Word) (s : State) : Host.Outcome State Fault Refusal :=
  match reg with
  | .arg0 => .next { s with arg0 := w }
  | .arg1 => .next { s with arg1 := w }

end Sys2Proof.Machine
end

