-- ==== Sys2Proof/Machine/Dispatch.lean ====
section
/-!
DEFINITION. The dispatch: one arm per constructor of Instr, one direct call of its meaning.
-/

namespace Sys2Proof.Machine

def exec (i : Instr) (s : State) : Host.Outcome State Fault Refusal :=
  match i with
  | .rxIdlePoll => Sys2Proof.Machine.execRxIdlePoll s
  | .sohPolling => Sys2Proof.Machine.execSohPolling s
  | .stxPolling => Sys2Proof.Machine.execStxPolling s
  | .otherPolling _ => Sys2Proof.Machine.execOtherPolling s
  | .rxPollingTimeout => Sys2Proof.Machine.execRxPollingTimeout s
  | .rxPollingNothing => Sys2Proof.Machine.execRxPollingNothing s
  | .sohReceiving => Sys2Proof.Machine.execSohReceiving s
  | .stxReceiving => Sys2Proof.Machine.execStxReceiving s
  | .eotReceiving => Sys2Proof.Machine.execEotReceiving s
  | .otherReceiving _ => Sys2Proof.Machine.execOtherReceiving s
  | .rxIndex b => Sys2Proof.Machine.execRxIndex b s
  | .rxIndexInv b => Sys2Proof.Machine.execRxIndexInv b s
  | .rxPayload b => Sys2Proof.Machine.execRxPayload b s
  | .rxCrcHi b => Sys2Proof.Machine.execRxCrcHi b s
  | .rxCrcLo b => Sys2Proof.Machine.execRxCrcLo b s
  | .rxPacketTimeout => Sys2Proof.Machine.execRxPacketTimeout s
  | .rxReceivingNothing => Sys2Proof.Machine.execRxReceivingNothing s
  | .rxDone => Sys2Proof.Machine.execRxDone s
  | .txPoll => Sys2Proof.Machine.execTxPoll s
  | .txAck => Sys2Proof.Machine.execTxAck s
  | .txNak => Sys2Proof.Machine.execTxNak s
  | .nop => Sys2Proof.Machine.execNop s
  | .cmdCrc => Sys2Proof.Machine.execCmdCrc s
  | .cmdCheck => Sys2Proof.Machine.execCmdCheck s
  | .cmdTrailer => Sys2Proof.Machine.execCmdTrailer s
  | .cmdReserved _ => Sys2Proof.Machine.execCmdReserved s
  | .cmdReserved8F _ => Sys2Proof.Machine.execCmdReserved8F s
  | .cmdBusy _ => Sys2Proof.Machine.execCmdBusy s
  | .argWrite reg w => Sys2Proof.Machine.execArgWrite reg w s
  | .crc16Step c b => Sys2Proof.Machine.execCrc16Step c b s
  | .crc16 bytes => Sys2Proof.Machine.execCrc16 bytes s
  | .sessionErase => Sys2Proof.Machine.execSessionErase s
  | .program size => Sys2Proof.Machine.execProgram size s
  | .writeTrailer v => Sys2Proof.Machine.execWriteTrailer v s
  | .isAppValid => Sys2Proof.Machine.execIsAppValid s
  | .seqCheck => Sys2Proof.Machine.execSeqCheck s
  | .seqErase => Sys2Proof.Machine.execSeqErase s
  | .seqReceive => Sys2Proof.Machine.execSeqReceive s
  | .seqFinish => Sys2Proof.Machine.execSeqFinish s
  | .seqApp => Sys2Proof.Machine.execSeqApp s
  | .seqRestart => Sys2Proof.Machine.execSeqRestart s

end Sys2Proof.Machine
end

