-- ==== Sys2Proof/Machine/Fetch.lean ====
section
/-!
DEFINITION. What the next step runs: the turn of an environment agent or the core's own step (spec/00_scope.md R9,
spec/43_boot_decision.md R214, R218, R224, spec/10_state.md R36), and how an instruction is placed so that the next step runs it.
-/

namespace Sys2Proof.Machine

/-- What a step has to do. -/
inductive Fetched where
  /-- Run an instruction in a state. -/
  | run (i : Instr) (s : State)
  /-- Run an instruction in a state, and lose power in it. -/
  | cut (i : Instr) (s : State)
  /-- Nothing but the state given. -/
  | quiet (s : State)
  /-- The run is unmodelled. -/
  | refuse (r : Refusal)

/-- R214: the core's autonomous step. -/
def coreTurn (s : State) : Fetched :=
  .run (decodeTop s.top) s

/-- R35, R36: a host write: its instruction, or nothing where the write is ignored. -/
def hostWriteTurn (addr width : Nat) (w : Word) (s : State) : Fetched :=
  match hostWriteInstr s addr width w with
  | some i => .run i s
  | none => .quiet s

/-- R80, R268: the host changes a byte of flash, which it may do in `APP` only. -/
def hostFlashTurn (addr : Word) (b : Byte) (s : State) : Fetched :=
  if s.top = .app then .quiet { s with flash := s.flash.patch s.stuck addr.toNat [b] }
  else .refuse .foreignFlashChange

/-- R214, R218: a step that can make flash requests. -/
def requesterTurn (r : Requester) (s : State) : Fetched :=
  match r with
  | .core => coreTurn s
  | .hostWrite addr width w => hostWriteTurn addr width w s

/-- R271: a step in which power is lost. -/
def powerLossTurn (f : Fetched) : Fetched :=
  match f with
  | .run i s | .cut i s => .cut i s
  | .quiet s => .quiet (applyReset s)
  | .refuse r => .refuse r

/-- R9, R214: the step of the agent whose turn it is. -/
def takeTurn (t : Turn) (s : State) : Fetched :=
  match t with
  | .core => coreTurn s
  | .hostWrite addr width w => hostWriteTurn addr width w s
  | .hostRead addr width => .quiet { s with hostRd := hostReadWord s addr width }
  | .hostFlash addr b => hostFlashTurn addr b s
  | .reset => .quiet (applyReset s)
  | .powerLoss during => powerLossTurn (requesterTurn during s)

/-- R214: the next turn, taken off the list; with none listed, the core's. notes/assumptions/6.md. -/
def fetch (s : State) : Fetched :=
  match s.turns with
  | [] => coreTurn s
  | t :: rest => takeTurn t { s with turns := rest }

/-- A state whose next step is the host's write of `w` to `CTRL`, with `TOP = APP`. -/
def withCtrlWrite (s : State) (w : Word) : State :=
  { s with top := .app, turns := .hostWrite (s.cfg.regBase + ctrlOffset) 4 w :: s.turns }

/-- A state whose next step receives `b` in `RECEIVING` at an offset. -/
def withReceived (s : State) (offset : BitVec 11) (b : Byte) : State :=
  { s with top := .receive, rxs := .receiving, offset := offset, turns := .core :: s.turns,
           draws := { s.draws with rx := some b :: s.draws.rx } }

/-- A state whose next step transmits a byte: the poll byte from `IDLE` (R141), `ACK` to an EOT (R147), `NAK` to a
short packet of zeros with a wrong CRC (R153). -/
def withTransmit (s : State) (b : Byte) : State :=
  if b = pollByte then { s with top := .receive, rxs := .idle, turns := .core :: s.turns }
  else if b = ackByte then withReceived s 0 eotByte
  else { withReceived s 132 0 with size := .short, rxcrc := 0xFFFF, pktbuf := Vector.replicate 1024 0 }

/-- A state whose next step runs the instruction of a table word, as `decodeTableWord` reads it.
notes/assumptions/17.md. -/
def placeTableWord (s : State) (nbits w : Nat) : State :=
  match decodeTableWord nbits w with
  | none => s
  | some .txPoll => withTransmit s pollByte
  | some .txAck => withTransmit s ackByte
  | some .txNak => withTransmit s nakByte
  | some _ => withCtrlWrite s (BitVec.ofNat 32 w)

end Sys2Proof.Machine
end

