-- ==== Sys2Proof/Machine/Step.lean ====
section
/-!
DEFINITION. One step of the machine, and the fixed name that places an instruction for the next step.
-/

namespace Sys2Proof.Machine

/-- R8, R11, R214: one atomic step: the next turn, in an admitted configuration. -/
def step (s : State) : Host.Outcome State Fault Refusal :=
  if admitted s.cfg then
    match fetch s with
    | .run i t => exec i t
    | .cut i t => losePower (exec i t)
    | .quiet t => .next t
    | .refuse r => .refused r
  else .refused .configNotAdmitted

/-- The state whose next step runs the instruction of a table word. -/
def State.withFetchWord (s : State) (nbits w : Nat) : State :=
  placeTableWord s nbits w

end Sys2Proof.Machine
end

