-- ==== Sys2Proof/Safety.lean ====
section
/-!
DEFINITION. What claims are stated in: the state a step answers with, the image and its trailer, the invariant of the
machine, the reach of its requests, and the parts of a code that the decoder looks at.
-/

namespace Sys2Proof.Machine

/-- The next state, where there is one. -/
def nextOf (o : Host.Outcome State Fault Refusal) : Option State :=
  match o with
  | .next t => some t
  | .fault _ => none
  | .refused _ => none

/-- R62: the trailer value flash holds. -/
def trailerOf (s : State) : Half :=
  trailerValue (s.flash.read (trailerLoAddr s.cfg)) (s.flash.read (trailerHiAddr s.cfg))

/-- R124: the CRC of the bytes flash holds in `[IMG_START, IMG_END - 4)`. -/
def imageCrc (s : State) : Half :=
  crcOf (s.flash.readRange s.cfg.imgStart (dataLen s.cfg))

/-- R210: the region carries a valid image. -/
def ValidImage (s : State) : Prop :=
  trailerOf s ≠ 0xFFFF ∧ imageCrc s = trailerOf s

/-- R64, R124: the events of the `n` reads from `lo` up. -/
def readEvents (s : State) (lo n : Nat) : List Event :=
  (List.range' lo n).map fun a => .memRead a (s.flash.read a)

/-- R210: the events of the two reads of the trailer. -/
def trailerEvents (s : State) : List Event :=
  [.memRead (trailerLoAddr s.cfg) (s.flash.read (trailerLoAddr s.cfg)),
   .memRead (trailerHiAddr s.cfg) (s.flash.read (trailerHiAddr s.cfg))]

/-- The byte a transmit event sends. -/
def txByte : Event → Option Byte
  | .tx b => some b
  | .memRead _ _ | .flashPrepare _ _ _ | .flashErase _ _ _ | .flashWrite _ _ _ _ | .flashCompare _ _ _ _
  | .timerStart _ | .timerExpired _ | .rx _ | .bootApp | .resetReq => none

/-- R69: the requests the core may make. -/
def WithinReach (c : Config) : Event → Prop
  | .memRead a _ => c.imgStart ≤ a ∧ a < c.imgEnd
  | .flashPrepare s0 s1 _ | .flashErase s0 s1 _ =>
    (sectorFirst c ≤ s0 ∧ s0 ≤ sectorLast c) ∧ (sectorFirst c ≤ s1 ∧ s1 ≤ sectorLast c)
  | .flashWrite a _ n _ | .flashCompare a _ n _ => c.imgStart ≤ a ∧ a + n ≤ c.imgEnd
  | .tx _ | .timerStart _ | .timerExpired _ | .rx _ | .bootApp | .resetReq => True

/-- The control registers the decoder looks at. -/
def ctxOf (s : State) : Ctx :=
  { top := s.top, rxs := s.rxs, offset := s.offset, size := s.size }

/-- R101: a code with the bits the decoder ignores written as 0. -/
def significant : Code → Code
  | .rx b => .rx b
  | .tx b => .tx b
  | .write offset w => if offset = ctrlOffset then .write offset (w &&& 0xF) else .write offset w

/-- R21, R22, R147, R156, R212: which receiver state goes with which sequencer state. -/
def ControlInv (s : State) : Prop :=
  match s.top with
  | .check | .app | .erase => s.rxs = .idle
  | .receive => s.rxs ≠ .done
  | .finish | .restart => s.rxs = .done

/-- R23, R97: `OFFSET` is 0 outside a packet, and stands at a byte of the packet inside one. -/
def OffsetInv (s : State) : Prop :=
  if s.rxs = .receiving then s.offset.toNat ≤ pktLen s.size + 4 else s.offset.toNat = 0

/-- R184: `CURSOR` stays in the image region, on a write page. -/
def CursorInv (s : State) : Prop :=
  s.cfg.imgStart ≤ s.cursor.toNat ∧ s.cursor.toNat ≤ s.cfg.imgEnd ∧ s.cursor.toNat % s.cfg.writePage = 0

/-- The invariant of the machine: an admitted configuration (R11), flash in canonical form, `SCRATCH` of its size
(R34), and the three above. -/
def Inv (s : State) : Prop :=
  admitted s.cfg = true ∧ s.flash.wf ∧ s.scratch.length = s.cfg.trailerUnit
  ∧ ControlInv s ∧ OffsetInv s ∧ CursorInv s

/-- R260, R271: the turns that end in a reset. -/
def isReset : Turn → Bool
  | .reset | .powerLoss _ => true
  | .core | .hostWrite _ _ _ | .hostRead _ _ | .hostFlash _ _ => false

/-- The next turn is no reset, of either kind. -/
def NoResetTurn (s : State) : Prop :=
  s.turns.head?.any isReset = false

/-- The turn of a step that is not cut short. -/
def turnOf : Requester → Turn
  | .core => .core
  | .hostWrite addr width w => .hostWrite addr width w

/-- R39, R260: `t` has every element of the core at its reset value, the history empty, and the flash given. -/
def AtReset (t : State) (c : Config) (flash : Memory) : Prop :=
  t.top = .check ∧ t.rxs = .idle ∧ t.offset = 0 ∧ t.size = .short ∧ t.rxcrc = 0x0000
  ∧ t.pktnum = 0x00 ∧ t.pktnumInv = 0x00 ∧ t.cursor = BitVec.ofNat 32 c.imgStart ∧ t.erased = false
  ∧ t.result = 0x0000 ∧ t.trailerRd = 0x0000 ∧ t.arg0 = 0x00000000 ∧ t.arg1 = 0x00000000
  ∧ t.ok = false ∧ t.appValid = false ∧ t.malformed = false ∧ t.pktTimeout = false ∧ t.cmdErr = false
  ∧ t.resetReq = false ∧ t.scratch.length = c.trailerUnit
  ∧ t.history = [] ∧ t.flash = flash ∧ t.cfg = c

/-- R26, R32: a state without what is only recorded: `PKTNUM`, `PKTNUM_INV`, `MALFORMED`, `PKT_TIMEOUT`. -/
def forgetRecorded (s : State) : State :=
  { s with pktnum := 0, pktnumInv := 0, malformed := false, pktTimeout := false }

end Sys2Proof.Machine
end

