-- ==== Sys2Proof/Certificates/Slice0/Obligations.lean ====
section
/-!
DEFINITION. The statements for the provers. Each docstring names the rules of spec/ it states.
-/

open Sys2Proof Sys2Proof.Machine

/-! ### Encodings -/

/-- R97, R99, R101, R103, R224: words written out from the spec's encodings decode to what they stand for. -/
def Obligations.SpecWordsDecode : Prop :=
  decode ⟨.receive, .polling, 0, .short⟩ (.rx 0b00000001) = .ok .sohPolling
  ∧ decode ⟨.receive, .polling, 0, .short⟩ (.rx 0b00000010) = .ok .stxPolling
  ∧ decode ⟨.receive, .polling, 0, .short⟩ (.rx 0b00000100) = .ok (.otherPolling 0x04)
  ∧ decode ⟨.receive, .receiving, 0, .long⟩ (.rx 0b00000100) = .ok .eotReceiving
  ∧ decode ⟨.receive, .receiving, 3, .short⟩ (.rx 0b00000100) = .ok (.rxPayload 0x04)
  ∧ decode ⟨.receive, .receiving, 131, .short⟩ (.rx 0b11111000) = .ok (.rxCrcHi 0xF8)
  ∧ decode ⟨.receive, .receiving, 1028, .long⟩ (.rx 0b11100000) = .ok (.rxCrcLo 0xE0)
  ∧ decode ⟨.app, .idle, 0, .short⟩ (.tx 0b01000011) = .ok .txPoll
  ∧ decode ⟨.app, .idle, 0, .short⟩ (.tx 0b00010101) = .ok .txNak
  ∧ decode ⟨.app, .idle, 0, .short⟩ (.write 0x00 0xFFFFFFF0) = .ok .nop
  ∧ decode ⟨.app, .idle, 0, .short⟩ (.write 0x00 0x00000001) = .ok .cmdCrc
  ∧ decode ⟨.app, .idle, 0, .short⟩ (.write 0x00 0x00000007) = .ok (.cmdReserved 0b11)
  ∧ decode ⟨.app, .idle, 0, .short⟩ (.write 0x00 0x0000000D) = .ok (.cmdReserved8F 0b101)
  ∧ decode ⟨.receive, .idle, 0, .short⟩ (.write 0x00 0x00000001) = .ok (.cmdBusy 0x1)
  ∧ decode ⟨.check, .idle, 0, .short⟩ (.write 0x0C 0x12345678) = .ok (.argWrite .arg1 0x12345678)

/-- R97, R99, R101, R103, R222, R223, R224: a well-formed instruction's code, in a context that selects its row,
decodes to it, for every operand. -/
def Obligations.DecodeEncodeAgree : Prop :=
  ∀ (c : Ctx) (i : Instr) (code : Code),
    i.wf = true → trigger c i = true → encode i = some code → decode c code = .ok i

/-- R97, R99, R101, R103: whatever the decoder answers is a well-formed instruction whose row the context selects,
and its code is the decoded one, ignored bits of `CTRL` apart. -/
def Obligations.EncodeDecodeAgree : Prop :=
  ∀ (c : Ctx) (code : Code) (i : Instr),
    decode c code = .ok i → i.wf = true ∧ trigger c i = true ∧ encode i = some (significant code)

/-- R97: the decode map of a received byte while `TOP = RECEIVE`. That a byte past the packet, for which the map has no
line, is rejected by name is the model's choice (notes/assumptions/10.md). -/
def Obligations.DecodeMapOfReceivedByte : Prop :=
  ∀ (c : Ctx) (b : Byte), c.top = .receive →
    let N := match c.size with
      | .short => 128
      | .long => 1024
    (c.rxs = .idle ∨ c.rxs = .done → decode c (.rx b) = .error .notSampled)
    ∧ (c.rxs = .polling →
        decode c (.rx b) = .ok (if b = 0x01 then .sohPolling else if b = 0x02 then .stxPolling else .otherPolling b))
    ∧ (c.rxs = .receiving →
        (c.offset.toNat = 0 →
          decode c (.rx b) = .ok (if b = 0x01 then .sohReceiving else if b = 0x02 then .stxReceiving
            else if b = 0x04 then .eotReceiving else .otherReceiving b))
        ∧ (c.offset.toNat = 1 → decode c (.rx b) = .ok (.rxIndex b))
        ∧ (c.offset.toNat = 2 → decode c (.rx b) = .ok (.rxIndexInv b))
        ∧ (3 ≤ c.offset.toNat → c.offset.toNat ≤ N + 2 → decode c (.rx b) = .ok (.rxPayload b))
        ∧ (c.offset.toNat = N + 3 → decode c (.rx b) = .ok (.rxCrcHi b))
        ∧ (c.offset.toNat = N + 4 → decode c (.rx b) = .ok (.rxCrcLo b))
        ∧ (N + 4 < c.offset.toNat → decode c (.rx b) = .error .offsetOutOfPacket))

/-! ### Steps -/

/-- R214: the core's autonomous step, listed as a turn or not, runs the sequencer row that `TOP` names; in `APP`
and `RESTART` it changes nothing. -/
def Obligations.CoreTurnRunsTheRowOfTop : Prop :=
  ∀ (s u : State), admitted s.cfg = true →
    (s.turns = [] ∧ u = s ∨ ∃ rest, s.turns = .core :: rest ∧ u = { s with turns := rest }) →
    (s.top = .check → step s = exec .seqCheck u)
    ∧ (s.top = .erase → step s = exec .seqErase u)
    ∧ (s.top = .receive → step s = exec .seqReceive u)
    ∧ (s.top = .finish → step s = exec .seqFinish u)
    ∧ (s.top = .app → step s = exec .seqApp u ∧ step s = .next u)
    ∧ (s.top = .restart → step s = exec .seqRestart u ∧ step s = .next u)

/-- R36, R218, R224: a host's aligned 32-bit write of the window runs the instruction its word decodes to, and does
nothing where the word is one that ignores writes (R35). -/
def Obligations.HostWriteRunsTheDecodedInstruction : Prop :=
  ∀ (s : State) (rest : List Turn) (off : Nat) (w : Word), admitted s.cfg = true →
    s.turns = .hostWrite (s.cfg.regBase + off) 4 w :: rest → off < 64 → off % 4 = 0 →
    (∀ i, decode (ctxOf s) (.write off w) = .ok i → step s = exec i { s with turns := rest })
    ∧ (∀ r, decode (ctxOf s) (.write off w) = .error r → step s = .next { s with turns := rest })

/-- R140: the receiver step samples nothing in `IDLE` and `DONE`; otherwise it takes a byte where `Rx` answers one and
runs the row the byte decodes to, and asks the timer only where `Rx` answers none. It answers a next state but for
a byte past the end of its packet (U18, notes/assumptions/10.md). R14, R15: a sample writes the draws and one event, and every answer
is possible. -/
def Obligations.ReceiverStepRunsTheDecodedRow : Prop :=
  (∀ s : State,
    (∃ r d, rxSample s = (r, { s with draws := d, history := s.history ++ [.rx r] }))
    ∧ ∀ r : Option Byte, ∃ d, (rxSample { s with draws := d }).1 = r)
  ∧ ∀ (s : State), s.top = .receive →
    (s.rxs = .idle → exec .seqReceive s = exec .rxIdlePoll s)
    ∧ (s.rxs = .done → exec .seqReceive s = exec .rxDone s)
    ∧ (s.rxs = .polling ∨ s.rxs = .receiving →
        (∀ b, (rxSample s).1 = some b →
          (∀ i, decode (ctxOf s) (.rx b) = .ok i → exec .seqReceive s = exec i (rxSample s).2)
          ∧ (∀ r, decode (ctxOf s) (.rx b) = .error r → exec .seqReceive s = .fault .offsetOutOfPacket))
        ∧ ((rxSample s).1 = none →
          let t := timerExpired (rxSample s).2
          (s.rxs = .polling →
            exec .seqReceive s = exec (if t.1 then .rxPollingTimeout else .rxPollingNothing) t.2)
          ∧ (s.rxs = .receiving →
            exec .seqReceive s = exec (if t.1 then .rxPacketTimeout else .rxReceivingNothing) t.2)))
    ∧ (s.rxs ≠ .receiving ∨ s.offset.toNat ≤ pktLen s.size + 4 → ∃ t, exec .seqReceive s = .next t)

/-- R35, R36: a host read changes no state but the word the host is answered with, which is the window's; for an access
that is not aligned and 32 bits wide it is 0, and such a write changes nothing. That the same holds outside the window, and that
alignment counts from `REG_BASE`, are the model's choices (notes/assumptions/7.md). -/
def Obligations.OtherHostAccessesHaveNoEffect : Prop :=
  (∀ (s : State) (addr width : Nat) (rest : List Turn), admitted s.cfg = true →
    s.turns = .hostRead addr width :: rest →
    step s = .next { s with turns := rest, hostRd := hostReadWord s addr width }
      ∧ (width ≠ 4 ∨ addr < s.cfg.regBase ∨ s.cfg.regBase + 64 ≤ addr ∨ (addr - s.cfg.regBase) % 4 ≠ 0 →
          hostReadWord s addr width = 0))
  ∧ (∀ (s : State) (addr width : Nat) (w : Word) (rest : List Turn), admitted s.cfg = true →
    s.turns = .hostWrite addr width w :: rest →
    width ≠ 4 ∨ addr < s.cfg.regBase ∨ s.cfg.regBase + 64 ≤ addr ∨ (addr - s.cfg.regBase) % 4 ≠ 0 →
    step s = .next { s with turns := rest })

/-- R35, R21, R22: what a host read of each word of the window is answered with, with the codes of `TOP` and `RXS`. -/
def Obligations.RegisterWindowReads : Prop :=
  ∀ (s : State),
    let rd := fun off => hostReadWord s (s.cfg.regBase + off) 4
    rd 0x00 = 0
    ∧ ((rd 0x04).getLsbD 0 = decide (s.top ≠ .app) ∧ (rd 0x04).getLsbD 1 = s.ok ∧ (rd 0x04).getLsbD 2 = s.appValid
      ∧ (rd 0x04).getLsbD 3 = s.malformed ∧ (rd 0x04).getLsbD 4 = s.pktTimeout ∧ (rd 0x04).getLsbD 5 = s.cmdErr
      ∧ (rd 0x04).getLsbD 6 = s.resetReq ∧ (rd 0x04).getLsbD 7 = s.erased
      ∧ (rd 0x04).extractLsb' 8 3 = (match s.top with
          | .check => 0 | .app => 1 | .erase => 2 | .receive => 3 | .finish => 4 | .restart => 5)
      ∧ (rd 0x04).getLsbD 11 = false
      ∧ (rd 0x04).extractLsb' 12 2 = (match s.rxs with
          | .idle => 0 | .polling => 1 | .receiving => 2 | .done => 3)
      ∧ (rd 0x04).getLsbD 14 = decide (s.size = .long)
      ∧ (rd 0x04).extractLsb' 15 17 = 0)
    ∧ rd 0x08 = s.arg0 ∧ rd 0x0C = s.arg1
    ∧ rd 0x10 = 0#16 ++ s.result ∧ rd 0x14 = s.cursor ∧ rd 0x18 = 0#21 ++ s.offset ∧ rd 0x1C = 0#16 ++ s.rxcrc
    ∧ rd 0x20 = 0#16 ++ (s.pktnumInv ++ s.pktnum) ∧ rd 0x24 = 0#16 ++ s.trailerRd
    ∧ (∀ off, 0x28 ≤ off → off < 0x40 → off % 4 = 0 → rd off = 0)

/-- R11: over a sector map that is total, a configuration is admitted exactly when the eight constraints hold, in the
spec's words. -/
def Obligations.AdmittedMeansTheConstraints : Prop :=
  ∀ (c : Config), tiles 0 c.sectors = true →
    (admitted c = true ↔
      c.writePage ∈ [128, 256, 512, 1024]
      ∧ c.imgStart % c.writePage = 0
      ∧ (c.imgEnd - c.imgStart) % c.writePage = 0
      ∧ (c.imgStart < c.imgEnd ∧ c.imgEnd ≤ 4294967296)
      ∧ (4 ≤ c.trailerUnit ∧ c.trailerUnit ≤ c.imgEnd - c.imgStart)
      ∧ (∀ a, a < 4294967296 → (sectorOf c a = trailerSector c ↔ c.imgEnd - c.trailerUnit ≤ a ∧ a < c.imgEnd))
      ∧ (∀ a, a < 4294967296 →
          (sectorFirst c ≤ sectorOf c a ∧ sectorOf c a ≤ sectorLast c ↔ c.imgStart ≤ a ∧ a < c.imgEnd))
      ∧ (∀ a b, c.imgStart ≤ a → a ≤ b → b < c.imgEnd → sectorOf c a ≤ sectorOf c b))

/-- R11, U12 and R80, U25: the runs that are refused: a configuration that breaks a constraint, and another agent's
change of flash while `TOP ≠ APP`; in `APP` that change is made, and touches its own byte only. -/
def Obligations.UnmodelledRunsAreRefused : Prop :=
  (∀ s : State, admitted s.cfg = false → step s = .refused .configNotAdmitted)
  ∧ (∀ (s : State) (a : Word) (b : Byte) (rest : List Turn), admitted s.cfg = true →
      s.turns = .hostFlash a b :: rest →
      (s.top ≠ .app → step s = .refused .foreignFlashChange)
      ∧ (s.top = .app → ∃ m, step s = .next { s with turns := rest, flash := m }
          ∧ (a.toNat ∉ s.stuck → m.read a.toNat = b) ∧ ∀ x, x ≠ a.toNat → m.read x = s.flash.read x))

/-! ### Reset -/

/-- R39, R260: reset gives every element of the core its reset value, empties the history, keeps flash and the
parameters, and can leave any bytes in `PKTBUF`. R271: a step in which power is lost ends in a reset, with the flash that the step left,
and outside the image region as it was (notes/assumptions/11.md). -/
def Obligations.ResetLeavesTheSpecValues : Prop :=
  (∀ (s : State) (rest : List Turn), admitted s.cfg = true → s.turns = .reset :: rest →
    (∃ t, step s = .next t ∧ AtReset t s.cfg s.flash ∧ t.turns = rest)
    ∧ (∀ buf : Vector Byte 1024, ∃ (d : Draws) (t : State), step { s with draws := d } = .next t ∧ t.pktbuf = buf))
  ∧ (∀ (s v : State) (r : Requester) (rest : List Turn), s.turns = .powerLoss r :: rest →
      step { s with turns := turnOf r :: rest } = .next v →
      (∃ t, step s = .next t ∧ AtReset t s.cfg v.flash ∧ t.turns = rest)
      ∧ (Inv s → ∀ a, a < Config.addrSpace → a < s.cfg.imgStart ∨ s.cfg.imgEnd ≤ a →
          v.flash.read a = s.flash.read a))

/-- The invariant holds at reset. It rests on the model's choice of the configuration (notes/assumptions/2.md). -/
def Obligations.InvariantHoldsAtReset : Prop :=
  Inv State.reset ∧ State.reset.stuck = []

/-! ### The receiver -/

/-- R141, R144: a poll is sent and timed, from `IDLE` and at a poll timeout. -/
def Obligations.PollIsSentAndTimed : Prop :=
  ∀ s : State,
    let t := { s with
      timer := .running s.cfg.pollTimeoutMs,
      history := s.history ++ [.tx 0x43, .timerStart s.cfg.pollTimeoutMs] }
    exec .rxIdlePoll s = .next { t with rxs := .polling } ∧ exec .rxPollingTimeout s = .next t

/-- R142, R146: a start marker opens a packet of its size and starts the packet timer; from `POLLING` it also enters
`RECEIVING`. -/
def Obligations.StartMarkerOpensAPacket : Prop :=
  ∀ s : State,
    let t := fun z => { s with
      size := z, offset := 1, timer := .running s.cfg.packetTimeoutMs,
      history := s.history ++ [.timerStart s.cfg.packetTimeoutMs] }
    exec .sohPolling s = .next { t .short with rxs := .receiving }
    ∧ exec .stxPolling s = .next { t .long with rxs := .receiving }
    ∧ exec .sohReceiving s = .next (t .short)
    ∧ exec .stxReceiving s = .next (t .long)

/-- R143, R145, R155, R156: the receiver's steps without effect. -/
def Obligations.ReceiverStepsWithoutEffect : Prop :=
  ∀ (s : State) (b : Byte),
    exec (.otherPolling b) s = .next s ∧ exec .rxPollingNothing s = .next s
    ∧ exec .rxReceivingNothing s = .next s ∧ exec .rxDone s = .next s

/-- R147: EOT is acknowledged and hands control to the FINISH step. -/
def Obligations.EotEndsTheSession : Prop :=
  ∀ s : State,
    exec .eotReceiving s = .next { s with rxs := .done, top := .finish, history := s.history ++ [.tx 0x06] }

/-- R148, R154: an unrecognised leading byte and a packet timeout only set their flags. -/
def Obligations.FramingErrorsOnlySetFlags : Prop :=
  ∀ (s : State) (b : Byte),
    exec (.otherReceiving b) s = .next { s with malformed := true }
    ∧ exec .rxPacketTimeout s = .next { s with pktTimeout := true }

/-- R149, R150: the index bytes are recorded, whatever they are. -/
def Obligations.IndexBytesAreRecorded : Prop :=
  ∀ (s : State) (b : Byte),
    exec (.rxIndex b) s = .next { s with pktnum := b, offset := 2 }
    ∧ exec (.rxIndexInv b) s = .next { s with pktnumInv := b, offset := 3 }

/-- R151: a payload byte goes to `PKTBUF[OFFSET - 3]` and nowhere else, and `OFFSET` moves on. That the row faults by name at an
offset that is no payload position, where R151 gives it no effect, is the model's choice (notes/assumptions/10.md). -/
def Obligations.PayloadByteIsStored : Prop :=
  ∀ (s : State) (b : Byte),
    (3 ≤ s.offset.toNat → s.offset.toNat ≤ pktLen s.size + 2 →
      ∃ buf : Vector Byte 1024,
        exec (.rxPayload b) s = .next { s with pktbuf := buf, offset := BitVec.ofNat 11 (s.offset.toNat + 1) }
        ∧ buf.toList[s.offset.toNat - 3]? = some b
        ∧ ∀ j, j ≠ s.offset.toNat - 3 → buf.toList[j]? = s.pktbuf.toList[j]?)
    ∧ (s.offset.toNat < 3 ∨ pktLen s.size + 2 < s.offset.toNat → exec (.rxPayload b) s = .fault .offsetOutOfPacket)

/-- R152: the CRC's high byte. -/
def Obligations.CrcHighByteIsRecorded : Prop :=
  ∀ (s : State) (b : Byte),
    ∃ v : Half, exec (.rxCrcHi b) s
        = .next { s with rxcrc := v, offset := BitVec.ofNat 11 (match s.size with | .short => 132 | .long => 1028) }
      ∧ v.extractLsb' 8 8 = b ∧ v.extractLsb' 0 8 = s.rxcrc.extractLsb' 0 8

/-- R153: the last byte of a packet: a CRC mismatch is answered `NAK` and PROGRAM is not invoked; a match runs PROGRAM
on the packet's length, and its answer picks the reply. -/
def Obligations.LastByteVerifiesAndReplies : Prop :=
  ∀ (s : State) (b : Byte),
    ∃ r : State, r = { s with rxcrc := r.rxcrc } ∧ r.rxcrc.extractLsb' 8 8 = s.rxcrc.extractLsb' 8 8
      ∧ r.rxcrc.extractLsb' 0 8 = b
      ∧ (crcOf (s.pktbuf.toList.take (pktLen s.size)) ≠ r.rxcrc →
          exec (.rxCrcLo b) s = .next { r with offset := 0, history := s.history ++ [.tx 0x15] })
      ∧ (crcOf (s.pktbuf.toList.take (pktLen s.size)) = r.rxcrc →
          ∃ p : State, exec (.program s.size) r = .next p
            ∧ (p.ret = .answer .ok ∨ p.ret = .answer .fail)
            ∧ (p.ret = .answer .ok →
                exec (.rxCrcLo b) s = .next { p with ret := s.ret, offset := 0, history := p.history ++ [.tx 0x06] })
            ∧ (p.ret = .answer .fail →
                exec (.rxCrcLo b) s = .next { p with ret := s.ret, offset := 0, history := p.history ++ [.tx 0x15] }))

/-- R99: the three bytes the core transmits, each one event. -/
def Obligations.TransmittedBytesAreEvents : Prop :=
  ∀ s : State,
    exec .txPoll s = .next { s with history := s.history ++ [.tx 0x43] }
    ∧ exec .txAck s = .next { s with history := s.history ++ [.tx 0x06] }
    ∧ exec .txNak s = .next { s with history := s.history ++ [.tx 0x15] }

/-- R158: of the received bytes only the last of a packet and EOT are answered, each by exactly one byte, in the
step that takes it. -/
def Obligations.RepliesOnlyToPacketsAndEot : Prop :=
  ∀ (s t : State) (b : Byte) (i : Instr), s.top = .receive → decode (ctxOf s) (.rx b) = .ok i → exec i s = .next t →
    ∃ es, t.history = s.history ++ es
      ∧ ((∃ c, i = .rxCrcLo c) → es.filterMap txByte = [0x06] ∨ es.filterMap txByte = [0x15])
      ∧ (i = .eotReceiving → es.filterMap txByte = [0x06])
      ∧ ((∀ c, i ≠ .rxCrcLo c) → i ≠ .eotReceiving → es.filterMap txByte = [])

/-! ### Host commands -/

/-- R218, R219, R222, R223: the dispatch of a write of `CTRL`. -/
def Obligations.CommandDispatch : Prop :=
  ∀ (s : State) (w : Word) (rest : List Turn), admitted s.cfg = true →
    s.turns = .hostWrite s.cfg.regBase 4 w :: rest →
    let cmd := w.extractLsb' 0 4
    let u := { s with turns := rest }
    (cmd = 0x0 → step s = .next u)
    ∧ (cmd ≠ 0x0 → s.top ≠ .app → step s = .next { u with cmdErr := true })
    ∧ (s.top = .app → 0x4 ≤ cmd → step s = .next { u with cmdErr := true })
    ∧ (s.top = .app → cmd = 0x1 → step s = exec .cmdCrc { u with cmdErr := false })
    ∧ (s.top = .app → cmd = 0x2 → step s = exec .cmdCheck { u with cmdErr := false })
    ∧ (s.top = .app → cmd = 0x3 → step s = exec .cmdTrailer { u with cmdErr := false })

/-- R216, R217, R219, R222, R223: the rows without effect and the rows that only report an error. -/
def Obligations.WaitingAndRejectedRows : Prop :=
  ∀ (s : State) (lo2 : BitVec 2) (lo3 : BitVec 3) (cmd : BitVec 4),
    exec .nop s = .next s ∧ exec .seqApp s = .next s ∧ exec .seqRestart s = .next s
    ∧ exec (.cmdReserved lo2) s = .next { s with cmdErr := true }
    ∧ exec (.cmdReserved8F lo3) s = .next { s with cmdErr := true }
    ∧ exec (.cmdBusy cmd) s = .next { s with cmdErr := true }

/-- R224, R31: a host write of an argument register is one step, in every state of the sequencer; it changes that
register only, and the word reads back as written (R35). -/
def Obligations.ArgumentWritesReadBack : Prop :=
  ∀ (s : State) (w : Word),
    exec (.argWrite .arg0 w) s = .next { s with arg0 := w }
    ∧ exec (.argWrite .arg1 w) s = .next { s with arg1 := w }
    ∧ (∀ rest, admitted s.cfg = true → s.turns = .hostWrite (s.cfg.regBase + 0x08) 4 w :: rest →
        step s = .next { s with turns := rest, arg0 := w })
    ∧ (∀ rest, admitted s.cfg = true → s.turns = .hostWrite (s.cfg.regBase + 0x0C) 4 w :: rest →
        step s = .next { s with turns := rest, arg1 := w })
    ∧ hostReadWord { s with arg0 := w } (s.cfg.regBase + 0x08) 4 = w
    ∧ hostReadWord { s with arg1 := w } (s.cfg.regBase + 0x0C) 4 = w

/-- R125: CMD_CRC in `APP`: a range outside the region is refused without a read; one inside gives the CRC of its
bytes, each read once in ascending order. The sum is not taken modulo 2^32. -/
def Obligations.CmdCrcComputesOverTheRange : Prop :=
  ∀ s : State, s.top = .app →
    let a := s.arg0.toNat
    let n := s.arg1.toNat
    (a < s.cfg.imgStart ∨ s.cfg.imgEnd < a + n →
      exec .cmdCrc s = .next { s with cmdErr := false, ok := false })
    ∧ (s.cfg.imgStart ≤ a → a + n ≤ s.cfg.imgEnd →
      exec .cmdCrc s = .next { s with
        cmdErr := false, ok := true, result := crcOf (s.flash.readRange a n),
        history := s.history ++ readEvents s a n })

/-- R221: CMD_CHECK in `APP` is IS_APP_VALID, and clears `CMD_ERR`; `TOP` is kept and no `BootApp` is emitted. -/
def Obligations.CmdCheckRunsTheComparator : Prop :=
  ∀ s : State, s.top = .app →
    ∃ u, exec .isAppValid { s with cmdErr := false } = .next u ∧ exec .cmdCheck s = .next { u with ret := s.ret }
      ∧ u.top = .app ∧ ∃ es, u.history = s.history ++ es ∧ .bootApp ∉ es

/-- R186: CMD_TRAILER in `APP` is WRITE_TRAILER of the low half of `ARG0`, and clears `CMD_ERR`. -/
def Obligations.CmdTrailerPatchesWithArg0 : Prop :=
  ∀ s : State, s.top = .app →
    ∃ u, exec (.writeTrailer (s.arg0.extractLsb' 0 16)) { s with cmdErr := false } = .next u
      ∧ exec .cmdTrailer s = .next { u with ret := s.ret } ∧ u.top = .app

/-! ### The checksum engine -/

/-- R120, R121: the two engine rows return their values and change nothing else; the values are those of the
spec's vectors V-C2 to V-C10. -/
def Obligations.EngineRowsReturnTheirValues : Prop :=
  (∀ (s : State) (c : Half) (b : Byte) (bytes : List Byte),
    exec (.crc16Step c b) s = .next { s with ret := .crc (crcStep c b) }
    ∧ exec (.crc16 bytes) s = .next { s with ret := .crc (crcOf bytes) })
  ∧ crcStep 0x0000 0x01 = 0x1021 ∧ crcStep 0x0000 0x80 = 0x9188 ∧ crcStep 0xFFFF 0xFF = 0xFF00
  ∧ crcStep 0x1021 0x00 = 0x3331 ∧ crcOf [] = 0x0000 ∧ crcOf [0x41] = 0x58E5
  ∧ crcOf [0x31, 0x32, 0x33, 0x34, 0x35, 0x36, 0x37, 0x38, 0x39] = 0x31C3

/-- R122: the byte-wise form of CRC16_STEP equals the bit-serial one. -/
def Obligations.ByteWiseStepIsTheBitSerialStep : Prop :=
  ∀ (c : Half) (b : Byte),
    crcStep c b
      = (fun v : Half => if v.msb then (v <<< 1) ^^^ 0x1021 else v <<< 1)^[8] (c ^^^ (b.setWidth 16 <<< 8))

/-- R123 laws 1, 3 and 5: the empty span, chunking, and that a sequence followed by its own CRC, high byte first, has
CRC 0. -/
def Obligations.ChecksumChunkingAndResidue : Prop :=
  crcOf [] = 0
  ∧ (∀ a b : List Byte, crcFrom (crcFrom 0 a) b = crcOf (a ++ b))
  ∧ ∀ s : List Byte, crcOf (s ++ [(crcOf s).extractLsb' 8 8, (crcOf s).extractLsb' 0 8]) = 0

/-- R123 law 6: changing one bit of a sequence changes its CRC. -/
def Obligations.SingleBitChangesAreDetected : Prop :=
  ∀ (s : List Byte) (i : Nat) (k : Nat), i < s.length → k < 8 →
    crcOf (s.set i (s.getD i 0 ^^^ (1#8 <<< k))) ≠ crcOf s

/-! ### Flash requests and the timer -/

/-- R65, R68: a prepare can answer either way and changes no byte; a compare answers exactly whether flash holds the
buffer's bytes, and changes no byte. Each is one event. -/
def Obligations.PrepareAndCompareContracts : Prop :=
  (∀ (s : State) (s0 s1 : Nat), ∃ a d,
    flashPrepare s0 s1 s = (a, { s with draws := d, history := s.history ++ [.flashPrepare s0 s1 a] }))
  ∧ (∀ (s : State) (s0 s1 : Nat) (a : Answer), ∃ d, (flashPrepare s0 s1 { s with draws := d }).1 = a)
  ∧ (∀ (s : State) (addr : Nat) (buf : Buf) (n : Nat), n ≤ (bufBytes buf s).length → ∃ m : Bool,
    flashCompare addr buf n s = (m, { s with history := s.history ++ [.flashCompare addr buf n m] })
    ∧ (m = true ↔ ∀ i, i < n → (bufBytes buf s)[i]? = some (s.flash.read (addr + i))))

/-- R66: an erase answered ok leaves 0xFF in every byte of its sectors; whatever the answer, no byte outside them
changes; either answer is possible, and one answered fail can leave any bytes in its sectors. -/
def Obligations.EraseContract : Prop :=
  ∀ (s : State) (s0 s1 : Nat), s.stuck = [] → tiles 0 s.cfg.sectors = true →
    (∃ a m d, flashErase s0 s1 s
        = (a, { s with flash := m, draws := d, history := s.history ++ [.flashErase s0 s1 a] })
      ∧ (∀ x, x < Config.addrSpace → ¬ (s0 ≤ sectorOf s.cfg x ∧ sectorOf s.cfg x ≤ s1) → m.read x = s.flash.read x)
      ∧ (a = .ok → ∀ x, s0 ≤ sectorOf s.cfg x → sectorOf s.cfg x ≤ s1 → m.read x = 0xFF))
    ∧ (∃ d, (flashErase s0 s1 { s with draws := d }).1 = .ok)
    ∧ (∀ v : Nat → Byte, ∃ d, (flashErase s0 s1 { s with draws := d }).1 = .fail
        ∧ ∀ x, x < Config.addrSpace → s0 ≤ sectorOf s.cfg x → sectorOf s.cfg x ≤ s1 →
            (flashErase s0 s1 { s with draws := d }).2.flash.read x = v x)

/-- R67: a write answered ok leaves the buffer's bytes, no other byte changes whatever the answer; either answer is
possible, and one answered fail can leave any bytes in its range. -/
def Obligations.WriteContract : Prop :=
  ∀ (s : State) (addr : Nat) (buf : Buf) (n : Nat), s.stuck = [] → n ≤ (bufBytes buf s).length →
    (∃ a m d, flashWrite addr buf n s
        = (a, { s with flash := m, draws := d, history := s.history ++ [.flashWrite addr buf n a] })
      ∧ (∀ x, x < addr ∨ addr + n ≤ x → m.read x = s.flash.read x)
      ∧ (a = .ok → ∀ i, i < n → some (m.read (addr + i)) = (bufBytes buf s)[i]?))
    ∧ (∃ d, (flashWrite addr buf n { s with draws := d }).1 = .ok)
    ∧ (∀ v : Nat → Byte, ∃ d, (flashWrite addr buf n { s with draws := d }).1 = .fail
        ∧ ∀ i, i < n → (flashWrite addr buf n { s with draws := d }).2.flash.read (addr + i) = v i)

/-- R249: once `TimerExpired` has answered true after a `TimerStart`, it answers true until the next one: a call writes
the draws, one event, and whether the timer has been seen expired, after which every call answers true and before which either answer
is possible (U7, U8); and a step that leaves the expired state has started the timer (or was a reset). -/
def Obligations.ExpiredTimerStaysExpired : Prop :=
  (∀ s : State, ∃ b d, timerExpired s = (b, { s with
        draws := d, history := s.history ++ [.timerExpired b],
        timer := match s.timer with
          | .unstarted => .unstarted
          | .running ms => if b then .expired ms else .running ms
          | .expired ms => .expired ms })
      ∧ ((∃ ms, s.timer = .expired ms) → b = true))
  ∧ (∀ (s : State) (b : Bool), (∀ ms, s.timer ≠ .expired ms) → ∃ d, (timerExpired { s with draws := d }).1 = b)
  ∧ (∀ (s t : State) (ms : Nat), NoResetTurn s → s.timer = .expired ms → step s = .next t →
      t.timer = .expired ms ∨ ∃ es ms', t.history = s.history ++ es ∧ .timerStart ms' ∈ es ∧ t.timer = .running ms')

/-! ### The flash programmer -/

/-- R180: SESSION_ERASE by the answers of its two requests; after ok every byte of the region is 0xFF. -/
def Obligations.SessionEraseOutcomes : Prop :=
  ∀ s : State,
    let p := flashPrepare (sectorFirst s.cfg) (sectorLast s.cfg) s
    let e := flashErase (sectorFirst s.cfg) (sectorLast s.cfg) p.2
    (p.1 = .fail → exec .sessionErase s = .next { p.2 with ok := false, ret := .answer .fail })
    ∧ (p.1 = .ok → e.1 = .fail → exec .sessionErase s = .next { e.2 with ok := false, ret := .answer .fail })
    ∧ (p.1 = .ok → e.1 = .ok →
        exec .sessionErase s = .next { e.2 with erased := true, ok := true, ret := .answer .ok }
        ∧ (admitted s.cfg = true → s.stuck = [] →
            ∀ a, s.cfg.imgStart ≤ a → a < s.cfg.imgEnd → e.2.flash.read a = 0xFF))

/-- R181: PROGRAM past the end of the region fails without a request. -/
def Obligations.ProgramPastTheRegionFails : Prop :=
  ∀ (s : State) (z : SizeClass), s.cfg.imgEnd < s.cursor.toNat + max (pktLen z) s.cfg.writePage →
    exec (.program z) s = .next { s with ok := false, ret := .answer .fail }

/-- R181, R182: PROGRAM in an erased session whose prepare and write answer ok writes `PKTBUF` from the cursor, for
the clamped length, and advances the cursor by it; nothing else changes. Where the sum does not fit 32 bits the cursor is a free
value within the limits of R184 (notes/assumptions/9.md). -/
def Obligations.ProgramWritesAndAdvances : Prop :=
  ∀ (s : State) (z : SizeClass),
    let len := max (pktLen z) s.cfg.writePage
    let p := flashPrepare (sectorFirst s.cfg) (sectorLast s.cfg) s
    admitted s.cfg = true → s.stuck = [] → s.erased = true → s.cursor.toNat + len ≤ s.cfg.imgEnd →
    p.1 = .ok → (flashWrite s.cursor.toNat .pktbuf len p.2).1 = .ok →
    ∃ m d cur, exec (.program z) s = .next { s with
        flash := m, draws := d, cursor := cur, ok := true, ret := .answer .ok,
        history := s.history ++ [.flashPrepare (sectorFirst s.cfg) (sectorLast s.cfg) .ok,
          .flashWrite s.cursor.toNat .pktbuf len .ok, .flashCompare s.cursor.toNat .pktbuf len true] }
      ∧ (s.cursor.toNat + len < Config.addrSpace → cur.toNat = s.cursor.toNat + len)
      ∧ (s.cursor.toNat ≤ cur.toNat ∧ cur.toNat ≤ s.cursor.toNat + len
        ∧ (s.cursor.toNat % s.cfg.writePage = 0 → cur.toNat % s.cfg.writePage = 0))
      ∧ (∀ i, i < len → s.pktbuf.toList[i]? = some (m.read (s.cursor.toNat + i)))
      ∧ (∀ a, a < s.cursor.toNat ∨ s.cursor.toNat + len ≤ a → m.read a = s.flash.read a)

/-- R181, R183: every PROGRAM answers; one that returns fail clears `OK` and leaves `CURSOR`, and `ERASED` once set;
in an erased session only the bytes from `CURSOR` for the clamped length can change, and otherwise only the region's; no other part of the
state than `OK`, `ERASED`, `CURSOR`, flash, the draws, the history and the returned answer changes. -/
def Obligations.ProgramFrame : Prop :=
  ∀ (s : State) (z : SizeClass), ∃ t, exec (.program z) s = .next t
    ∧ t = { s with ok := t.ok, erased := t.erased, cursor := t.cursor, flash := t.flash, draws := t.draws,
                   history := t.history, ret := t.ret }
    ∧ (t.ret = .answer .ok ∧ t.ok = true ∨ t.ret = .answer .fail ∧ t.ok = false ∧ t.cursor = s.cursor)
    ∧ (s.erased = true → t.erased = true)
    ∧ (s.erased = true → ∀ a, a < s.cursor.toNat ∨ s.cursor.toNat + max (pktLen z) s.cfg.writePage ≤ a →
        t.flash.read a = s.flash.read a)
    ∧ (admitted s.cfg = true → s.cfg.imgStart ≤ s.cursor.toNat → ∀ a, a < Config.addrSpace →
        a < s.cfg.imgStart ∨ s.cfg.imgEnd ≤ a → t.flash.read a = s.flash.read a)

/-- R181: a session's first PROGRAM erases first where the session still owes its erase, and fails, with no write, where that erase
fails. -/
def Obligations.ProgramErasesWhereOwed : Prop :=
  ∀ (s : State) (z : SizeClass), s.erased = false →
    s.cursor.toNat + max (pktLen z) s.cfg.writePage ≤ s.cfg.imgEnd →
    ∃ e, exec .sessionErase s = .next e
      ∧ (e.ret = .answer .fail → exec (.program z) s = .next e)
      ∧ (e.ret = .answer .ok → exec (.program z) s = exec (.program z) e)

/-- R185, R34: WRITE_TRAILER answers, leaves the unit's bytes in `SCRATCH` with the trailer half-word replaced, and changes only `OK`, `SCRATCH`, flash, the draws, the history and the returned
answer; where all four requests answer ok it has read the unit once and made exactly those requests, and outside the unit no byte changes
in any case. -/
def Obligations.TrailerPatchRequests : Prop :=
  ∀ (s : State) (v : Half), admitted s.cfg = true →
    let ts := trailerSector s.cfg
    let base := s.cfg.imgEnd - s.cfg.trailerUnit
    ∃ t, exec (.writeTrailer v) s = .next t
      ∧ t = { s with ok := t.ok, scratch := t.scratch, flash := t.flash, draws := t.draws, history := t.history,
                     ret := t.ret }
      ∧ (t.ret = .answer .ok ∧ t.ok = true ∨ t.ret = .answer .fail ∧ t.ok = false)
      ∧ t.scratch.length = s.cfg.trailerUnit
      ∧ (∀ i, i < s.cfg.trailerUnit → t.scratch[i]? = some (
          if i = s.cfg.trailerUnit - 4 then v.extractLsb' 0 8
          else if i = s.cfg.trailerUnit - 3 then v.extractLsb' 8 8
          else s.flash.read (base + i)))
      ∧ (t.ret = .answer .ok → t.history = s.history ++ readEvents s base s.cfg.trailerUnit
          ++ [.flashPrepare ts ts .ok, .flashErase ts ts .ok, .flashPrepare ts ts .ok,
              .flashWrite base .scratch s.cfg.trailerUnit .ok])
      ∧ (∀ a, a < Config.addrSpace → a < base ∨ s.cfg.imgEnd ≤ a → t.flash.read a = s.flash.read a)

/-- R187: a trailer patch that returns ok leaves exactly the trailer it was given and every other byte as it was, so the image
checksum is the same. -/
def Obligations.TrailerPatchPreservesTheRest : Prop :=
  ∀ (s t : State) (v : Half), admitted s.cfg = true → s.stuck = [] →
    exec (.writeTrailer v) s = .next t → t.ret = .answer .ok →
    trailerOf t = v
    ∧ (∀ a, a < Config.addrSpace → a ≠ s.cfg.imgEnd - 4 → a ≠ s.cfg.imgEnd - 3 → t.flash.read a = s.flash.read a)
    ∧ imageCrc t = imageCrc s

/-- R188: what a failed trailer patch leaves, by the request that failed: the old trailer after the first prepare, an
erased unit after the second. -/
def Obligations.TrailerPatchFailures : Prop :=
  ∀ (s t : State) (v : Half), admitted s.cfg = true → s.stuck = [] → exec (.writeTrailer v) s = .next t →
    let ts := trailerSector s.cfg
    let reads := readEvents s (s.cfg.imgEnd - s.cfg.trailerUnit) s.cfg.trailerUnit
    (t.history = s.history ++ reads ++ [.flashPrepare ts ts .fail] →
      t.flash = s.flash ∧ trailerOf t = trailerOf s ∧ t.ok = false)
    ∧ (t.history = s.history ++ reads ++ [.flashPrepare ts ts .ok, .flashErase ts ts .ok, .flashPrepare ts ts .fail] →
      trailerOf t = 0xFFFF ∧ t.ok = false
      ∧ ∀ a, s.cfg.imgEnd - s.cfg.trailerUnit ≤ a → a < s.cfg.imgEnd → t.flash.read a = 0xFF)

/-! ### The boot decision and the sequencer -/

/-- R210: IS_APP_VALID: an erased trailer is refused after its two reads; any other is compared with the image
checksum, each byte of the data span read once. -/
def Obligations.ComparatorDecidesByTheTrailer : Prop :=
  ∀ s : State,
    (trailerOf s = 0xFFFF →
      exec .isAppValid s = .next { s with
        trailerRd := 0xFFFF, appValid := false, ret := .verdict false, history := s.history ++ trailerEvents s })
    ∧ (trailerOf s ≠ 0xFFFF →
      exec .isAppValid s = .next { s with
        trailerRd := trailerOf s, result := imageCrc s, appValid := decide (imageCrc s = trailerOf s),
        ret := .verdict (decide (imageCrc s = trailerOf s)),
        history := s.history ++ trailerEvents s
          ++ readEvents s s.cfg.imgStart (s.cfg.imgEnd - s.cfg.imgStart - 4) })

/-- R211: the CHECK step is IS_APP_VALID; a valid image is handed off, any other opens an update. -/
def Obligations.CheckStepDecides : Prop :=
  ∀ s : State, ∃ u, exec .isAppValid s = .next u
    ∧ (u.appValid = true →
        exec .seqCheck s = .next { u with ret := s.ret, top := .app, history := u.history ++ [.bootApp] })
    ∧ (u.appValid = false → exec .seqCheck s = .next { u with ret := s.ret, top := .erase })

/-- R212, R213: the ERASE step opens a session, runs SESSION_ERASE, and goes on to `RECEIVE` whatever it answered. -/
def Obligations.EraseStepOpensASession : Prop :=
  ∀ s : State, ∃ u,
    exec .sessionErase { s with rxs := .idle, offset := 0, cursor := BitVec.ofNat 32 s.cfg.imgStart, erased := false,
                                malformed := false, pktTimeout := false } = .next u
    ∧ exec .seqErase s = .next { u with ret := s.ret, top := .receive }

/-- R215: the FINISH step: the image checksum into `RESULT`, WRITE_TRAILER of it, and a restart requested whatever it
answered. -/
def Obligations.FinishStepPatchesAndRestarts : Prop :=
  ∀ s : State, ∃ u,
    exec (.writeTrailer (imageCrc s)) { s with
        result := imageCrc s,
        history := s.history ++ readEvents s s.cfg.imgStart (s.cfg.imgEnd - s.cfg.imgStart - 4) } = .next u
    ∧ exec .seqFinish s = .next { u with
        ret := s.ret, resetReq := true, top := .restart, history := u.history ++ [.resetReq] }

/-- R272: an image whose checksum is 0xFFFF is valid under no trailer, so CHECK opens an update. -/
def Obligations.ChecksumAllOnesNeverBoots : Prop :=
  ∀ s : State, imageCrc s = 0xFFFF → ∃ t, exec .seqCheck s = .next t ∧ t.top = .erase ∧ t.appValid = false

/-- R264, R216, R217: without a reset, a step changes `TOP` only along the boot order; so `APP` and `RESTART` are left by
reset alone. -/
def Obligations.TopFollowsTheBootOrder : Prop :=
  ∀ s t : State, NoResetTurn s → step s = .next t →
    t.top = s.top
    ∨ (s.top, t.top) ∈ [(.check, .app), (.check, .erase), (.erase, .receive), (.receive, .finish), (.finish, .restart)]

/-! ### The whole machine -/

/-- Every step keeps the invariant. -/
def Obligations.EveryStepKeepsTheInvariant : Prop :=
  ∀ s t : State, Inv s → step s = .next t → Inv t

/-- R240, U18: a machine in its invariant never faults, and answers a next state but for a foreign change of flash
outside `APP` (R80). -/
def Obligations.EveryStepCompletes : Prop :=
  ∀ s : State, Inv s →
    (∃ t, step s = .next t)
    ∨ step s = .refused .foreignFlashChange ∧ s.top ≠ .app ∧ ∃ a b, s.turns.head? = some (.hostFlash a b)

/-- R69: every request of a step stays in the image region and its sectors. -/
def Obligations.RequestsStayInTheRegion : Prop :=
  ∀ s t : State, Inv s → NoResetTurn s → step s = .next t →
    ∃ es, t.history = s.history ++ es ∧ ∀ e ∈ es, WithinReach s.cfg e

/-- R99: a step transmits at most one byte, and only the poll byte, `ACK` or `NAK`. -/
def Obligations.AtMostOneByteIsSentPerStep : Prop :=
  ∀ s t : State, NoResetTurn s → step s = .next t →
    ∃ es, t.history = s.history ++ es ∧ (es.filterMap txByte).length ≤ 1
      ∧ ∀ b ∈ es.filterMap txByte, b = 0x43 ∨ b = 0x06 ∨ b = 0x15

/-- R27, R184: outside a session start and a reset `CURSOR` never goes back, and it moves only past bytes whose compare
matched in that step: past all of them, where the sum fits its 32 bits. -/
def Obligations.CursorOnlyAdvancesOnAMatch : Prop :=
  ∀ s t : State, Inv s → NoResetTurn s → s.top ≠ .erase → step s = .next t →
    s.cursor.toNat ≤ t.cursor.toNat
    ∧ (t.cursor ≠ s.cursor →
        ∃ es n, t.history = s.history ++ es ∧ .flashCompare s.cursor.toNat .pktbuf n true ∈ es
          ∧ t.cursor.toNat ≤ s.cursor.toNat + n
          ∧ (s.cursor.toNat + n < Config.addrSpace → t.cursor.toNat = s.cursor.toNat + n))

/-- R226: a step that enters `APP`, or that sets `APP_VALID`, leaves a region whose trailer is the CRC of its data. -/
def Obligations.OnlyAValidImageBoots : Prop :=
  ∀ s t : State, step s = .next t →
    (t.top = .app → s.top = .app ∨ ValidImage t ∧ t.history.getLast? = some .bootApp)
    ∧ (t.appValid = true → s.appValid = true ∨ ValidImage t)

/-- R215, R225: a FINISH step whose trailer patch succeeded, then the reset it asks for, then the CHECK step, end in
`APP`, unless the checksum is 0xFFFF. -/
def Obligations.FinishedImageBootsAfterReset : Prop :=
  ∀ (s : State) (rest : List Turn), admitted s.cfg = true → s.stuck = [] → s.top = .finish →
    s.turns = .core :: .reset :: .core :: rest → imageCrc s ≠ 0xFFFF →
    ∃ t, step s = .next t ∧ t.history.getLast? = some .resetReq
      ∧ (t.ok = true → ∃ u, Host.Core.run Sys2Proof.core 3 s = .next u
          ∧ u.top = .app ∧ u.appValid = true ∧ u.history.getLast? = some .bootApp)

/-- R26, R32: what is only recorded, `PKTNUM`, `PKTNUM_INV`, `MALFORMED` and `PKT_TIMEOUT`, changes nothing else: two
states that differ only there both stop, for the same reason, or step to states that differ only there, host reads apart. -/
def Obligations.RecordedFlagsChangeNothing : Prop :=
  ∀ s : State, (∀ a w, s.turns.head? ≠ some (.hostRead a w)) →
    match step s, step (forgetRecorded s) with
    | .next t, .next u => forgetRecorded u = forgetRecorded t
    | .fault r, .fault q => q = r
    | .refused r, .refused q => q = r
    | _, _ => False
end

