-- ==== Sys2Proof/Laws/State.lean ====
section
/-!
SUPPORT. The small lemmas of the named updates: for each, what every field holds after it, by rfl. A proof cites them
instead of unfolding a record update. The fields an update leaves alone stand together in its lemma <update>_fields.
-/

namespace Sys2Proof.Machine

@[simp] theorem emit_fields (e : Event) (s : State) :
    (emit e s).top = s.top ∧ (emit e s).rxs = s.rxs ∧ (emit e s).offset = s.offset ∧ (emit e s).size = s.size ∧
    (emit e s).rxcrc = s.rxcrc ∧ (emit e s).pktnum = s.pktnum ∧ (emit e s).pktnumInv = s.pktnumInv ∧
    (emit e s).cursor = s.cursor ∧ (emit e s).erased = s.erased ∧ (emit e s).result = s.result ∧
    (emit e s).trailerRd = s.trailerRd ∧ (emit e s).arg0 = s.arg0 ∧ (emit e s).arg1 = s.arg1 ∧ (emit e s).ok = s.ok ∧
    (emit e s).appValid = s.appValid ∧ (emit e s).malformed = s.malformed ∧ (emit e s).pktTimeout = s.pktTimeout ∧
    (emit e s).cmdErr = s.cmdErr ∧ (emit e s).resetReq = s.resetReq ∧ (emit e s).pktbuf = s.pktbuf ∧
    (emit e s).scratch = s.scratch ∧ (emit e s).cfg = s.cfg ∧ (emit e s).flash = s.flash ∧
    (emit e s).stuck = s.stuck ∧ (emit e s).timer = s.timer ∧ (emit e s).draws = s.draws ∧
    (emit e s).turns = s.turns ∧ (emit e s).ret = s.ret ∧ (emit e s).hostRd = s.hostRd :=
  by and_intros <;> rfl

@[simp] theorem emit_history (e : Event) (s : State) : (emit e s).history = s.history ++ [e] := rfl

@[simp] theorem transmit_fields (b : Byte) (s : State) :
    (transmit b s).top = s.top ∧ (transmit b s).rxs = s.rxs ∧ (transmit b s).offset = s.offset ∧
    (transmit b s).size = s.size ∧ (transmit b s).rxcrc = s.rxcrc ∧ (transmit b s).pktnum = s.pktnum ∧
    (transmit b s).pktnumInv = s.pktnumInv ∧ (transmit b s).cursor = s.cursor ∧ (transmit b s).erased = s.erased ∧
    (transmit b s).result = s.result ∧ (transmit b s).trailerRd = s.trailerRd ∧ (transmit b s).arg0 = s.arg0 ∧
    (transmit b s).arg1 = s.arg1 ∧ (transmit b s).ok = s.ok ∧ (transmit b s).appValid = s.appValid ∧
    (transmit b s).malformed = s.malformed ∧ (transmit b s).pktTimeout = s.pktTimeout ∧
    (transmit b s).cmdErr = s.cmdErr ∧ (transmit b s).resetReq = s.resetReq ∧ (transmit b s).pktbuf = s.pktbuf ∧
    (transmit b s).scratch = s.scratch ∧ (transmit b s).cfg = s.cfg ∧ (transmit b s).flash = s.flash ∧
    (transmit b s).stuck = s.stuck ∧ (transmit b s).timer = s.timer ∧ (transmit b s).draws = s.draws ∧
    (transmit b s).turns = s.turns ∧ (transmit b s).ret = s.ret ∧ (transmit b s).hostRd = s.hostRd :=
  by and_intros <;> rfl

@[simp] theorem transmit_history (b : Byte) (s : State) : (transmit b s).history = s.history ++ [.tx b] := rfl

@[simp] theorem timerStart_fields (ms : Nat) (s : State) :
    (timerStart ms s).top = s.top ∧ (timerStart ms s).rxs = s.rxs ∧ (timerStart ms s).offset = s.offset ∧
    (timerStart ms s).size = s.size ∧ (timerStart ms s).rxcrc = s.rxcrc ∧ (timerStart ms s).pktnum = s.pktnum ∧
    (timerStart ms s).pktnumInv = s.pktnumInv ∧ (timerStart ms s).cursor = s.cursor ∧
    (timerStart ms s).erased = s.erased ∧ (timerStart ms s).result = s.result ∧
    (timerStart ms s).trailerRd = s.trailerRd ∧ (timerStart ms s).arg0 = s.arg0 ∧ (timerStart ms s).arg1 = s.arg1 ∧
    (timerStart ms s).ok = s.ok ∧ (timerStart ms s).appValid = s.appValid ∧
    (timerStart ms s).malformed = s.malformed ∧ (timerStart ms s).pktTimeout = s.pktTimeout ∧
    (timerStart ms s).cmdErr = s.cmdErr ∧ (timerStart ms s).resetReq = s.resetReq ∧
    (timerStart ms s).pktbuf = s.pktbuf ∧ (timerStart ms s).scratch = s.scratch ∧ (timerStart ms s).cfg = s.cfg ∧
    (timerStart ms s).flash = s.flash ∧ (timerStart ms s).stuck = s.stuck ∧ (timerStart ms s).draws = s.draws ∧
    (timerStart ms s).turns = s.turns ∧ (timerStart ms s).ret = s.ret ∧ (timerStart ms s).hostRd = s.hostRd :=
  by and_intros <;> rfl

@[simp] theorem timerStart_history (ms : Nat) (s : State) : (timerStart ms s).history = s.history ++ [.timerStart ms] := rfl

@[simp] theorem timerStart_timer (ms : Nat) (s : State) : (timerStart ms s).timer = .running ms := rfl

@[simp] theorem setOk_fields (a : Answer) (s : State) :
    (setOk a s).top = s.top ∧ (setOk a s).rxs = s.rxs ∧ (setOk a s).offset = s.offset ∧ (setOk a s).size = s.size ∧
    (setOk a s).rxcrc = s.rxcrc ∧ (setOk a s).pktnum = s.pktnum ∧ (setOk a s).pktnumInv = s.pktnumInv ∧
    (setOk a s).cursor = s.cursor ∧ (setOk a s).erased = s.erased ∧ (setOk a s).result = s.result ∧
    (setOk a s).trailerRd = s.trailerRd ∧ (setOk a s).arg0 = s.arg0 ∧ (setOk a s).arg1 = s.arg1 ∧
    (setOk a s).appValid = s.appValid ∧ (setOk a s).malformed = s.malformed ∧ (setOk a s).pktTimeout = s.pktTimeout ∧
    (setOk a s).cmdErr = s.cmdErr ∧ (setOk a s).resetReq = s.resetReq ∧ (setOk a s).pktbuf = s.pktbuf ∧
    (setOk a s).scratch = s.scratch ∧ (setOk a s).cfg = s.cfg ∧ (setOk a s).flash = s.flash ∧
    (setOk a s).stuck = s.stuck ∧ (setOk a s).timer = s.timer ∧ (setOk a s).history = s.history ∧
    (setOk a s).draws = s.draws ∧ (setOk a s).turns = s.turns ∧ (setOk a s).ret = s.ret ∧
    (setOk a s).hostRd = s.hostRd :=
  by and_intros <;> rfl

@[simp] theorem setOk_ok (a : Answer) (s : State) : (setOk a s).ok = decide (a = .ok) := rfl

@[simp] theorem setAppValid_fields (v : Bool) (s : State) :
    (setAppValid v s).top = s.top ∧ (setAppValid v s).rxs = s.rxs ∧ (setAppValid v s).offset = s.offset ∧
    (setAppValid v s).size = s.size ∧ (setAppValid v s).rxcrc = s.rxcrc ∧ (setAppValid v s).pktnum = s.pktnum ∧
    (setAppValid v s).pktnumInv = s.pktnumInv ∧ (setAppValid v s).cursor = s.cursor ∧
    (setAppValid v s).erased = s.erased ∧ (setAppValid v s).result = s.result ∧
    (setAppValid v s).trailerRd = s.trailerRd ∧ (setAppValid v s).arg0 = s.arg0 ∧ (setAppValid v s).arg1 = s.arg1 ∧
    (setAppValid v s).ok = s.ok ∧ (setAppValid v s).malformed = s.malformed ∧
    (setAppValid v s).pktTimeout = s.pktTimeout ∧ (setAppValid v s).cmdErr = s.cmdErr ∧
    (setAppValid v s).resetReq = s.resetReq ∧ (setAppValid v s).pktbuf = s.pktbuf ∧
    (setAppValid v s).scratch = s.scratch ∧ (setAppValid v s).cfg = s.cfg ∧ (setAppValid v s).flash = s.flash ∧
    (setAppValid v s).stuck = s.stuck ∧ (setAppValid v s).timer = s.timer ∧ (setAppValid v s).history = s.history ∧
    (setAppValid v s).draws = s.draws ∧ (setAppValid v s).turns = s.turns ∧ (setAppValid v s).ret = s.ret ∧
    (setAppValid v s).hostRd = s.hostRd :=
  by and_intros <;> rfl

@[simp] theorem setAppValid_appValid (v : Bool) (s : State) : (setAppValid v s).appValid = v := rfl

@[simp] theorem setMalformed_fields (s : State) :
    (setMalformed s).top = s.top ∧ (setMalformed s).rxs = s.rxs ∧ (setMalformed s).offset = s.offset ∧
    (setMalformed s).size = s.size ∧ (setMalformed s).rxcrc = s.rxcrc ∧ (setMalformed s).pktnum = s.pktnum ∧
    (setMalformed s).pktnumInv = s.pktnumInv ∧ (setMalformed s).cursor = s.cursor ∧
    (setMalformed s).erased = s.erased ∧ (setMalformed s).result = s.result ∧
    (setMalformed s).trailerRd = s.trailerRd ∧ (setMalformed s).arg0 = s.arg0 ∧ (setMalformed s).arg1 = s.arg1 ∧
    (setMalformed s).ok = s.ok ∧ (setMalformed s).appValid = s.appValid ∧
    (setMalformed s).pktTimeout = s.pktTimeout ∧ (setMalformed s).cmdErr = s.cmdErr ∧
    (setMalformed s).resetReq = s.resetReq ∧ (setMalformed s).pktbuf = s.pktbuf ∧
    (setMalformed s).scratch = s.scratch ∧ (setMalformed s).cfg = s.cfg ∧ (setMalformed s).flash = s.flash ∧
    (setMalformed s).stuck = s.stuck ∧ (setMalformed s).timer = s.timer ∧ (setMalformed s).history = s.history ∧
    (setMalformed s).draws = s.draws ∧ (setMalformed s).turns = s.turns ∧ (setMalformed s).ret = s.ret ∧
    (setMalformed s).hostRd = s.hostRd :=
  by and_intros <;> rfl

@[simp] theorem setMalformed_malformed (s : State) : (setMalformed s).malformed = true := rfl

@[simp] theorem setPktTimeout_fields (s : State) :
    (setPktTimeout s).top = s.top ∧ (setPktTimeout s).rxs = s.rxs ∧ (setPktTimeout s).offset = s.offset ∧
    (setPktTimeout s).size = s.size ∧ (setPktTimeout s).rxcrc = s.rxcrc ∧ (setPktTimeout s).pktnum = s.pktnum ∧
    (setPktTimeout s).pktnumInv = s.pktnumInv ∧ (setPktTimeout s).cursor = s.cursor ∧
    (setPktTimeout s).erased = s.erased ∧ (setPktTimeout s).result = s.result ∧
    (setPktTimeout s).trailerRd = s.trailerRd ∧ (setPktTimeout s).arg0 = s.arg0 ∧ (setPktTimeout s).arg1 = s.arg1 ∧
    (setPktTimeout s).ok = s.ok ∧ (setPktTimeout s).appValid = s.appValid ∧
    (setPktTimeout s).malformed = s.malformed ∧ (setPktTimeout s).cmdErr = s.cmdErr ∧
    (setPktTimeout s).resetReq = s.resetReq ∧ (setPktTimeout s).pktbuf = s.pktbuf ∧
    (setPktTimeout s).scratch = s.scratch ∧ (setPktTimeout s).cfg = s.cfg ∧ (setPktTimeout s).flash = s.flash ∧
    (setPktTimeout s).stuck = s.stuck ∧ (setPktTimeout s).timer = s.timer ∧ (setPktTimeout s).history = s.history ∧
    (setPktTimeout s).draws = s.draws ∧ (setPktTimeout s).turns = s.turns ∧ (setPktTimeout s).ret = s.ret ∧
    (setPktTimeout s).hostRd = s.hostRd :=
  by and_intros <;> rfl

@[simp] theorem setPktTimeout_pktTimeout (s : State) : (setPktTimeout s).pktTimeout = true := rfl

@[simp] theorem setCmdErr_fields (s : State) :
    (setCmdErr s).top = s.top ∧ (setCmdErr s).rxs = s.rxs ∧ (setCmdErr s).offset = s.offset ∧
    (setCmdErr s).size = s.size ∧ (setCmdErr s).rxcrc = s.rxcrc ∧ (setCmdErr s).pktnum = s.pktnum ∧
    (setCmdErr s).pktnumInv = s.pktnumInv ∧ (setCmdErr s).cursor = s.cursor ∧ (setCmdErr s).erased = s.erased ∧
    (setCmdErr s).result = s.result ∧ (setCmdErr s).trailerRd = s.trailerRd ∧ (setCmdErr s).arg0 = s.arg0 ∧
    (setCmdErr s).arg1 = s.arg1 ∧ (setCmdErr s).ok = s.ok ∧ (setCmdErr s).appValid = s.appValid ∧
    (setCmdErr s).malformed = s.malformed ∧ (setCmdErr s).pktTimeout = s.pktTimeout ∧
    (setCmdErr s).resetReq = s.resetReq ∧ (setCmdErr s).pktbuf = s.pktbuf ∧ (setCmdErr s).scratch = s.scratch ∧
    (setCmdErr s).cfg = s.cfg ∧ (setCmdErr s).flash = s.flash ∧ (setCmdErr s).stuck = s.stuck ∧
    (setCmdErr s).timer = s.timer ∧ (setCmdErr s).history = s.history ∧ (setCmdErr s).draws = s.draws ∧
    (setCmdErr s).turns = s.turns ∧ (setCmdErr s).ret = s.ret ∧ (setCmdErr s).hostRd = s.hostRd :=
  by and_intros <;> rfl

@[simp] theorem setCmdErr_cmdErr (s : State) : (setCmdErr s).cmdErr = true := rfl

@[simp] theorem clearCmdErr_fields (s : State) :
    (clearCmdErr s).top = s.top ∧ (clearCmdErr s).rxs = s.rxs ∧ (clearCmdErr s).offset = s.offset ∧
    (clearCmdErr s).size = s.size ∧ (clearCmdErr s).rxcrc = s.rxcrc ∧ (clearCmdErr s).pktnum = s.pktnum ∧
    (clearCmdErr s).pktnumInv = s.pktnumInv ∧ (clearCmdErr s).cursor = s.cursor ∧ (clearCmdErr s).erased = s.erased ∧
    (clearCmdErr s).result = s.result ∧ (clearCmdErr s).trailerRd = s.trailerRd ∧ (clearCmdErr s).arg0 = s.arg0 ∧
    (clearCmdErr s).arg1 = s.arg1 ∧ (clearCmdErr s).ok = s.ok ∧ (clearCmdErr s).appValid = s.appValid ∧
    (clearCmdErr s).malformed = s.malformed ∧ (clearCmdErr s).pktTimeout = s.pktTimeout ∧
    (clearCmdErr s).resetReq = s.resetReq ∧ (clearCmdErr s).pktbuf = s.pktbuf ∧ (clearCmdErr s).scratch = s.scratch ∧
    (clearCmdErr s).cfg = s.cfg ∧ (clearCmdErr s).flash = s.flash ∧ (clearCmdErr s).stuck = s.stuck ∧
    (clearCmdErr s).timer = s.timer ∧ (clearCmdErr s).history = s.history ∧ (clearCmdErr s).draws = s.draws ∧
    (clearCmdErr s).turns = s.turns ∧ (clearCmdErr s).ret = s.ret ∧ (clearCmdErr s).hostRd = s.hostRd :=
  by and_intros <;> rfl

@[simp] theorem clearCmdErr_cmdErr (s : State) : (clearCmdErr s).cmdErr = false := rfl

@[simp] theorem setResetReq_fields (s : State) :
    (setResetReq s).top = s.top ∧ (setResetReq s).rxs = s.rxs ∧ (setResetReq s).offset = s.offset ∧
    (setResetReq s).size = s.size ∧ (setResetReq s).rxcrc = s.rxcrc ∧ (setResetReq s).pktnum = s.pktnum ∧
    (setResetReq s).pktnumInv = s.pktnumInv ∧ (setResetReq s).cursor = s.cursor ∧ (setResetReq s).erased = s.erased ∧
    (setResetReq s).result = s.result ∧ (setResetReq s).trailerRd = s.trailerRd ∧ (setResetReq s).arg0 = s.arg0 ∧
    (setResetReq s).arg1 = s.arg1 ∧ (setResetReq s).ok = s.ok ∧ (setResetReq s).appValid = s.appValid ∧
    (setResetReq s).malformed = s.malformed ∧ (setResetReq s).pktTimeout = s.pktTimeout ∧
    (setResetReq s).cmdErr = s.cmdErr ∧ (setResetReq s).pktbuf = s.pktbuf ∧ (setResetReq s).scratch = s.scratch ∧
    (setResetReq s).cfg = s.cfg ∧ (setResetReq s).flash = s.flash ∧ (setResetReq s).stuck = s.stuck ∧
    (setResetReq s).timer = s.timer ∧ (setResetReq s).history = s.history ∧ (setResetReq s).draws = s.draws ∧
    (setResetReq s).turns = s.turns ∧ (setResetReq s).ret = s.ret ∧ (setResetReq s).hostRd = s.hostRd :=
  by and_intros <;> rfl

@[simp] theorem setResetReq_resetReq (s : State) : (setResetReq s).resetReq = true := rfl

@[simp] theorem storePayload_fields (j : Nat) (b : Byte) (s : State) :
    (storePayload j b s).top = s.top ∧ (storePayload j b s).rxs = s.rxs ∧ (storePayload j b s).offset = s.offset ∧
    (storePayload j b s).size = s.size ∧ (storePayload j b s).rxcrc = s.rxcrc ∧
    (storePayload j b s).pktnum = s.pktnum ∧ (storePayload j b s).pktnumInv = s.pktnumInv ∧
    (storePayload j b s).cursor = s.cursor ∧ (storePayload j b s).erased = s.erased ∧
    (storePayload j b s).result = s.result ∧ (storePayload j b s).trailerRd = s.trailerRd ∧
    (storePayload j b s).arg0 = s.arg0 ∧ (storePayload j b s).arg1 = s.arg1 ∧ (storePayload j b s).ok = s.ok ∧
    (storePayload j b s).appValid = s.appValid ∧ (storePayload j b s).malformed = s.malformed ∧
    (storePayload j b s).pktTimeout = s.pktTimeout ∧ (storePayload j b s).cmdErr = s.cmdErr ∧
    (storePayload j b s).resetReq = s.resetReq ∧ (storePayload j b s).scratch = s.scratch ∧
    (storePayload j b s).cfg = s.cfg ∧ (storePayload j b s).flash = s.flash ∧ (storePayload j b s).stuck = s.stuck ∧
    (storePayload j b s).timer = s.timer ∧ (storePayload j b s).history = s.history ∧
    (storePayload j b s).draws = s.draws ∧ (storePayload j b s).turns = s.turns ∧ (storePayload j b s).ret = s.ret ∧
    (storePayload j b s).hostRd = s.hostRd :=
  by and_intros <;> rfl

@[simp] theorem storePayload_pktbuf (j : Nat) (b : Byte) (s : State) : (storePayload j b s).pktbuf = s.pktbuf.setIfInBounds j b := rfl

@[simp] theorem sessionStart_fields (s : State) :
    (sessionStart s).top = s.top ∧ (sessionStart s).size = s.size ∧ (sessionStart s).rxcrc = s.rxcrc ∧
    (sessionStart s).pktnum = s.pktnum ∧ (sessionStart s).pktnumInv = s.pktnumInv ∧
    (sessionStart s).result = s.result ∧ (sessionStart s).trailerRd = s.trailerRd ∧ (sessionStart s).arg0 = s.arg0 ∧
    (sessionStart s).arg1 = s.arg1 ∧ (sessionStart s).ok = s.ok ∧ (sessionStart s).appValid = s.appValid ∧
    (sessionStart s).cmdErr = s.cmdErr ∧ (sessionStart s).resetReq = s.resetReq ∧
    (sessionStart s).pktbuf = s.pktbuf ∧ (sessionStart s).scratch = s.scratch ∧ (sessionStart s).cfg = s.cfg ∧
    (sessionStart s).flash = s.flash ∧ (sessionStart s).stuck = s.stuck ∧ (sessionStart s).timer = s.timer ∧
    (sessionStart s).history = s.history ∧ (sessionStart s).draws = s.draws ∧ (sessionStart s).turns = s.turns ∧
    (sessionStart s).ret = s.ret ∧ (sessionStart s).hostRd = s.hostRd :=
  by and_intros <;> rfl

@[simp] theorem sessionStart_rxs (s : State) : (sessionStart s).rxs = .idle := rfl

@[simp] theorem sessionStart_offset (s : State) : (sessionStart s).offset = 0 := rfl

@[simp] theorem sessionStart_cursor (s : State) : (sessionStart s).cursor = BitVec.ofNat 32 s.cfg.imgStart := rfl

@[simp] theorem sessionStart_erased (s : State) : (sessionStart s).erased = false := rfl

@[simp] theorem sessionStart_malformed (s : State) : (sessionStart s).malformed = false := rfl

@[simp] theorem sessionStart_pktTimeout (s : State) : (sessionStart s).pktTimeout = false := rfl

@[simp] theorem memRead_fields (a : Nat) (s : State) :
    (memRead a s).2.top = s.top ∧ (memRead a s).2.rxs = s.rxs ∧ (memRead a s).2.offset = s.offset ∧
    (memRead a s).2.size = s.size ∧ (memRead a s).2.rxcrc = s.rxcrc ∧ (memRead a s).2.pktnum = s.pktnum ∧
    (memRead a s).2.pktnumInv = s.pktnumInv ∧ (memRead a s).2.cursor = s.cursor ∧ (memRead a s).2.erased = s.erased ∧
    (memRead a s).2.result = s.result ∧ (memRead a s).2.trailerRd = s.trailerRd ∧ (memRead a s).2.arg0 = s.arg0 ∧
    (memRead a s).2.arg1 = s.arg1 ∧ (memRead a s).2.ok = s.ok ∧ (memRead a s).2.appValid = s.appValid ∧
    (memRead a s).2.malformed = s.malformed ∧ (memRead a s).2.pktTimeout = s.pktTimeout ∧
    (memRead a s).2.cmdErr = s.cmdErr ∧ (memRead a s).2.resetReq = s.resetReq ∧ (memRead a s).2.pktbuf = s.pktbuf ∧
    (memRead a s).2.scratch = s.scratch ∧ (memRead a s).2.cfg = s.cfg ∧ (memRead a s).2.flash = s.flash ∧
    (memRead a s).2.stuck = s.stuck ∧ (memRead a s).2.timer = s.timer ∧ (memRead a s).2.draws = s.draws ∧
    (memRead a s).2.turns = s.turns ∧ (memRead a s).2.ret = s.ret ∧ (memRead a s).2.hostRd = s.hostRd :=
  by and_intros <;> rfl

@[simp] theorem memRead_history (a : Nat) (s : State) : (memRead a s).2.history = s.history ++ [.memRead a (s.flash.read a)] := rfl

@[simp] theorem memReadRange_fields (lo n : Nat) (s : State) :
    (memReadRange lo n s).2.top = s.top ∧ (memReadRange lo n s).2.rxs = s.rxs ∧
    (memReadRange lo n s).2.offset = s.offset ∧ (memReadRange lo n s).2.size = s.size ∧
    (memReadRange lo n s).2.rxcrc = s.rxcrc ∧ (memReadRange lo n s).2.pktnum = s.pktnum ∧
    (memReadRange lo n s).2.pktnumInv = s.pktnumInv ∧ (memReadRange lo n s).2.cursor = s.cursor ∧
    (memReadRange lo n s).2.erased = s.erased ∧ (memReadRange lo n s).2.result = s.result ∧
    (memReadRange lo n s).2.trailerRd = s.trailerRd ∧ (memReadRange lo n s).2.arg0 = s.arg0 ∧
    (memReadRange lo n s).2.arg1 = s.arg1 ∧ (memReadRange lo n s).2.ok = s.ok ∧
    (memReadRange lo n s).2.appValid = s.appValid ∧ (memReadRange lo n s).2.malformed = s.malformed ∧
    (memReadRange lo n s).2.pktTimeout = s.pktTimeout ∧ (memReadRange lo n s).2.cmdErr = s.cmdErr ∧
    (memReadRange lo n s).2.resetReq = s.resetReq ∧ (memReadRange lo n s).2.pktbuf = s.pktbuf ∧
    (memReadRange lo n s).2.scratch = s.scratch ∧ (memReadRange lo n s).2.cfg = s.cfg ∧
    (memReadRange lo n s).2.flash = s.flash ∧ (memReadRange lo n s).2.stuck = s.stuck ∧
    (memReadRange lo n s).2.timer = s.timer ∧ (memReadRange lo n s).2.draws = s.draws ∧
    (memReadRange lo n s).2.turns = s.turns ∧ (memReadRange lo n s).2.ret = s.ret ∧
    (memReadRange lo n s).2.hostRd = s.hostRd :=
  by and_intros <;> rfl

@[simp] theorem memReadRange_history (lo n : Nat) (s : State) : (memReadRange lo n s).2.history = s.history ++ (List.range' lo n).map fun a => .memRead a (s.flash.read a) := rfl

@[simp] theorem flashCompare_fields (a : Nat) (buf : Buf) (n : Nat) (s : State) :
    (flashCompare a buf n s).2.top = s.top ∧ (flashCompare a buf n s).2.rxs = s.rxs ∧
    (flashCompare a buf n s).2.offset = s.offset ∧ (flashCompare a buf n s).2.size = s.size ∧
    (flashCompare a buf n s).2.rxcrc = s.rxcrc ∧ (flashCompare a buf n s).2.pktnum = s.pktnum ∧
    (flashCompare a buf n s).2.pktnumInv = s.pktnumInv ∧ (flashCompare a buf n s).2.cursor = s.cursor ∧
    (flashCompare a buf n s).2.erased = s.erased ∧ (flashCompare a buf n s).2.result = s.result ∧
    (flashCompare a buf n s).2.trailerRd = s.trailerRd ∧ (flashCompare a buf n s).2.arg0 = s.arg0 ∧
    (flashCompare a buf n s).2.arg1 = s.arg1 ∧ (flashCompare a buf n s).2.ok = s.ok ∧
    (flashCompare a buf n s).2.appValid = s.appValid ∧ (flashCompare a buf n s).2.malformed = s.malformed ∧
    (flashCompare a buf n s).2.pktTimeout = s.pktTimeout ∧ (flashCompare a buf n s).2.cmdErr = s.cmdErr ∧
    (flashCompare a buf n s).2.resetReq = s.resetReq ∧ (flashCompare a buf n s).2.pktbuf = s.pktbuf ∧
    (flashCompare a buf n s).2.scratch = s.scratch ∧ (flashCompare a buf n s).2.cfg = s.cfg ∧
    (flashCompare a buf n s).2.flash = s.flash ∧ (flashCompare a buf n s).2.stuck = s.stuck ∧
    (flashCompare a buf n s).2.timer = s.timer ∧ (flashCompare a buf n s).2.draws = s.draws ∧
    (flashCompare a buf n s).2.turns = s.turns ∧ (flashCompare a buf n s).2.ret = s.ret ∧
    (flashCompare a buf n s).2.hostRd = s.hostRd :=
  by and_intros <;> rfl

@[simp] theorem flashCompare_history (a : Nat) (buf : Buf) (n : Nat) (s : State) : (flashCompare a buf n s).2.history = s.history ++ [.flashCompare a buf n (flashCompare a buf n s).1] := rfl

@[simp] theorem drawBytes_fields (n : Nat) (s : State) :
    (drawBytes n s).2.top = s.top ∧ (drawBytes n s).2.rxs = s.rxs ∧ (drawBytes n s).2.offset = s.offset ∧
    (drawBytes n s).2.size = s.size ∧ (drawBytes n s).2.rxcrc = s.rxcrc ∧ (drawBytes n s).2.pktnum = s.pktnum ∧
    (drawBytes n s).2.pktnumInv = s.pktnumInv ∧ (drawBytes n s).2.cursor = s.cursor ∧
    (drawBytes n s).2.erased = s.erased ∧ (drawBytes n s).2.result = s.result ∧
    (drawBytes n s).2.trailerRd = s.trailerRd ∧ (drawBytes n s).2.arg0 = s.arg0 ∧ (drawBytes n s).2.arg1 = s.arg1 ∧
    (drawBytes n s).2.ok = s.ok ∧ (drawBytes n s).2.appValid = s.appValid ∧
    (drawBytes n s).2.malformed = s.malformed ∧ (drawBytes n s).2.pktTimeout = s.pktTimeout ∧
    (drawBytes n s).2.cmdErr = s.cmdErr ∧ (drawBytes n s).2.resetReq = s.resetReq ∧
    (drawBytes n s).2.pktbuf = s.pktbuf ∧ (drawBytes n s).2.scratch = s.scratch ∧ (drawBytes n s).2.cfg = s.cfg ∧
    (drawBytes n s).2.flash = s.flash ∧ (drawBytes n s).2.stuck = s.stuck ∧ (drawBytes n s).2.timer = s.timer ∧
    (drawBytes n s).2.history = s.history ∧ (drawBytes n s).2.turns = s.turns ∧ (drawBytes n s).2.ret = s.ret ∧
    (drawBytes n s).2.hostRd = s.hostRd :=
  by and_intros <;> rfl

@[simp] theorem failed_fields (s : State) :
    (failed s).2.top = s.top ∧ (failed s).2.rxs = s.rxs ∧ (failed s).2.offset = s.offset ∧
    (failed s).2.size = s.size ∧ (failed s).2.rxcrc = s.rxcrc ∧ (failed s).2.pktnum = s.pktnum ∧
    (failed s).2.pktnumInv = s.pktnumInv ∧ (failed s).2.cursor = s.cursor ∧ (failed s).2.erased = s.erased ∧
    (failed s).2.result = s.result ∧ (failed s).2.trailerRd = s.trailerRd ∧ (failed s).2.arg0 = s.arg0 ∧
    (failed s).2.arg1 = s.arg1 ∧ (failed s).2.appValid = s.appValid ∧ (failed s).2.malformed = s.malformed ∧
    (failed s).2.pktTimeout = s.pktTimeout ∧ (failed s).2.cmdErr = s.cmdErr ∧ (failed s).2.resetReq = s.resetReq ∧
    (failed s).2.pktbuf = s.pktbuf ∧ (failed s).2.scratch = s.scratch ∧ (failed s).2.cfg = s.cfg ∧
    (failed s).2.flash = s.flash ∧ (failed s).2.stuck = s.stuck ∧ (failed s).2.timer = s.timer ∧
    (failed s).2.history = s.history ∧ (failed s).2.draws = s.draws ∧ (failed s).2.turns = s.turns ∧
    (failed s).2.ret = s.ret ∧ (failed s).2.hostRd = s.hostRd :=
  by and_intros <;> rfl

@[simp] theorem failed_ok (s : State) : (failed s).2.ok = false := rfl

end Sys2Proof.Machine
end

