-- ==== Sys2Proof/Laws/Frames.lean ====
section
/-!
SUPPORT. What the operations leave alone. For each operation that answers: its equation with the answers of its requests
by name (<operation>_eq), and the fields it never writes (<operation>_fields). A proof cites them instead of
unfolding the operation.
-/

namespace Sys2Proof.Machine

@[simp] theorem drawPrepare_fields (s : State) :
    (drawPrepare s).2.top = s.top ∧ (drawPrepare s).2.rxs = s.rxs ∧ (drawPrepare s).2.offset = s.offset ∧
    (drawPrepare s).2.size = s.size ∧ (drawPrepare s).2.rxcrc = s.rxcrc ∧ (drawPrepare s).2.pktnum = s.pktnum ∧
    (drawPrepare s).2.pktnumInv = s.pktnumInv ∧ (drawPrepare s).2.cursor = s.cursor ∧
    (drawPrepare s).2.erased = s.erased ∧ (drawPrepare s).2.result = s.result ∧
    (drawPrepare s).2.trailerRd = s.trailerRd ∧ (drawPrepare s).2.arg0 = s.arg0 ∧ (drawPrepare s).2.arg1 = s.arg1 ∧
    (drawPrepare s).2.ok = s.ok ∧ (drawPrepare s).2.appValid = s.appValid ∧
    (drawPrepare s).2.malformed = s.malformed ∧ (drawPrepare s).2.pktTimeout = s.pktTimeout ∧
    (drawPrepare s).2.cmdErr = s.cmdErr ∧ (drawPrepare s).2.resetReq = s.resetReq ∧
    (drawPrepare s).2.pktbuf = s.pktbuf ∧ (drawPrepare s).2.scratch = s.scratch ∧ (drawPrepare s).2.cfg = s.cfg ∧
    (drawPrepare s).2.flash = s.flash ∧ (drawPrepare s).2.stuck = s.stuck ∧ (drawPrepare s).2.timer = s.timer ∧
    (drawPrepare s).2.history = s.history ∧ (drawPrepare s).2.turns = s.turns ∧ (drawPrepare s).2.ret = s.ret ∧
    (drawPrepare s).2.hostRd = s.hostRd := by
  unfold drawPrepare; split <;> and_intros <;> rfl

@[simp] theorem drawErase_fields (s : State) :
    (drawErase s).2.top = s.top ∧ (drawErase s).2.rxs = s.rxs ∧ (drawErase s).2.offset = s.offset ∧
    (drawErase s).2.size = s.size ∧ (drawErase s).2.rxcrc = s.rxcrc ∧ (drawErase s).2.pktnum = s.pktnum ∧
    (drawErase s).2.pktnumInv = s.pktnumInv ∧ (drawErase s).2.cursor = s.cursor ∧ (drawErase s).2.erased = s.erased ∧
    (drawErase s).2.result = s.result ∧ (drawErase s).2.trailerRd = s.trailerRd ∧ (drawErase s).2.arg0 = s.arg0 ∧
    (drawErase s).2.arg1 = s.arg1 ∧ (drawErase s).2.ok = s.ok ∧ (drawErase s).2.appValid = s.appValid ∧
    (drawErase s).2.malformed = s.malformed ∧ (drawErase s).2.pktTimeout = s.pktTimeout ∧
    (drawErase s).2.cmdErr = s.cmdErr ∧ (drawErase s).2.resetReq = s.resetReq ∧ (drawErase s).2.pktbuf = s.pktbuf ∧
    (drawErase s).2.scratch = s.scratch ∧ (drawErase s).2.cfg = s.cfg ∧ (drawErase s).2.flash = s.flash ∧
    (drawErase s).2.stuck = s.stuck ∧ (drawErase s).2.timer = s.timer ∧ (drawErase s).2.history = s.history ∧
    (drawErase s).2.turns = s.turns ∧ (drawErase s).2.ret = s.ret ∧ (drawErase s).2.hostRd = s.hostRd := by
  unfold drawErase; split <;> and_intros <;> rfl

@[simp] theorem drawWrite_fields (s : State) :
    (drawWrite s).2.top = s.top ∧ (drawWrite s).2.rxs = s.rxs ∧ (drawWrite s).2.offset = s.offset ∧
    (drawWrite s).2.size = s.size ∧ (drawWrite s).2.rxcrc = s.rxcrc ∧ (drawWrite s).2.pktnum = s.pktnum ∧
    (drawWrite s).2.pktnumInv = s.pktnumInv ∧ (drawWrite s).2.cursor = s.cursor ∧ (drawWrite s).2.erased = s.erased ∧
    (drawWrite s).2.result = s.result ∧ (drawWrite s).2.trailerRd = s.trailerRd ∧ (drawWrite s).2.arg0 = s.arg0 ∧
    (drawWrite s).2.arg1 = s.arg1 ∧ (drawWrite s).2.ok = s.ok ∧ (drawWrite s).2.appValid = s.appValid ∧
    (drawWrite s).2.malformed = s.malformed ∧ (drawWrite s).2.pktTimeout = s.pktTimeout ∧
    (drawWrite s).2.cmdErr = s.cmdErr ∧ (drawWrite s).2.resetReq = s.resetReq ∧ (drawWrite s).2.pktbuf = s.pktbuf ∧
    (drawWrite s).2.scratch = s.scratch ∧ (drawWrite s).2.cfg = s.cfg ∧ (drawWrite s).2.flash = s.flash ∧
    (drawWrite s).2.stuck = s.stuck ∧ (drawWrite s).2.timer = s.timer ∧ (drawWrite s).2.history = s.history ∧
    (drawWrite s).2.turns = s.turns ∧ (drawWrite s).2.ret = s.ret ∧ (drawWrite s).2.hostRd = s.hostRd := by
  unfold drawWrite; split <;> and_intros <;> rfl

@[simp] theorem drawRx_fields (s : State) :
    (drawRx s).2.top = s.top ∧ (drawRx s).2.rxs = s.rxs ∧ (drawRx s).2.offset = s.offset ∧
    (drawRx s).2.size = s.size ∧ (drawRx s).2.rxcrc = s.rxcrc ∧ (drawRx s).2.pktnum = s.pktnum ∧
    (drawRx s).2.pktnumInv = s.pktnumInv ∧ (drawRx s).2.cursor = s.cursor ∧ (drawRx s).2.erased = s.erased ∧
    (drawRx s).2.result = s.result ∧ (drawRx s).2.trailerRd = s.trailerRd ∧ (drawRx s).2.arg0 = s.arg0 ∧
    (drawRx s).2.arg1 = s.arg1 ∧ (drawRx s).2.ok = s.ok ∧ (drawRx s).2.appValid = s.appValid ∧
    (drawRx s).2.malformed = s.malformed ∧ (drawRx s).2.pktTimeout = s.pktTimeout ∧ (drawRx s).2.cmdErr = s.cmdErr ∧
    (drawRx s).2.resetReq = s.resetReq ∧ (drawRx s).2.pktbuf = s.pktbuf ∧ (drawRx s).2.scratch = s.scratch ∧
    (drawRx s).2.cfg = s.cfg ∧ (drawRx s).2.flash = s.flash ∧ (drawRx s).2.stuck = s.stuck ∧
    (drawRx s).2.timer = s.timer ∧ (drawRx s).2.history = s.history ∧ (drawRx s).2.turns = s.turns ∧
    (drawRx s).2.ret = s.ret ∧ (drawRx s).2.hostRd = s.hostRd := by
  unfold drawRx; split <;> and_intros <;> rfl

@[simp] theorem drawTimer_fields (s : State) :
    (drawTimer s).2.top = s.top ∧ (drawTimer s).2.rxs = s.rxs ∧ (drawTimer s).2.offset = s.offset ∧
    (drawTimer s).2.size = s.size ∧ (drawTimer s).2.rxcrc = s.rxcrc ∧ (drawTimer s).2.pktnum = s.pktnum ∧
    (drawTimer s).2.pktnumInv = s.pktnumInv ∧ (drawTimer s).2.cursor = s.cursor ∧ (drawTimer s).2.erased = s.erased ∧
    (drawTimer s).2.result = s.result ∧ (drawTimer s).2.trailerRd = s.trailerRd ∧ (drawTimer s).2.arg0 = s.arg0 ∧
    (drawTimer s).2.arg1 = s.arg1 ∧ (drawTimer s).2.ok = s.ok ∧ (drawTimer s).2.appValid = s.appValid ∧
    (drawTimer s).2.malformed = s.malformed ∧ (drawTimer s).2.pktTimeout = s.pktTimeout ∧
    (drawTimer s).2.cmdErr = s.cmdErr ∧ (drawTimer s).2.resetReq = s.resetReq ∧ (drawTimer s).2.pktbuf = s.pktbuf ∧
    (drawTimer s).2.scratch = s.scratch ∧ (drawTimer s).2.cfg = s.cfg ∧ (drawTimer s).2.flash = s.flash ∧
    (drawTimer s).2.stuck = s.stuck ∧ (drawTimer s).2.timer = s.timer ∧ (drawTimer s).2.history = s.history ∧
    (drawTimer s).2.turns = s.turns ∧ (drawTimer s).2.ret = s.ret ∧ (drawTimer s).2.hostRd = s.hostRd := by
  unfold drawTimer; split <;> and_intros <;> rfl

theorem flashPrepare_eq (s0 s1 : Nat) (s : State) :
    flashPrepare s0 s1 s = ((drawPrepare s).1, emit (.flashPrepare s0 s1 (drawPrepare s).1) (drawPrepare s).2) := rfl

@[simp] theorem flashPrepare_answer (s0 s1 : Nat) (s : State) : (flashPrepare s0 s1 s).1 = (drawPrepare s).1 := rfl

@[simp] theorem flashPrepare_fields (s0 s1 : Nat) (s : State) :
    (flashPrepare s0 s1 s).2.top = s.top ∧ (flashPrepare s0 s1 s).2.rxs = s.rxs ∧
    (flashPrepare s0 s1 s).2.offset = s.offset ∧ (flashPrepare s0 s1 s).2.size = s.size ∧
    (flashPrepare s0 s1 s).2.rxcrc = s.rxcrc ∧ (flashPrepare s0 s1 s).2.pktnum = s.pktnum ∧
    (flashPrepare s0 s1 s).2.pktnumInv = s.pktnumInv ∧ (flashPrepare s0 s1 s).2.cursor = s.cursor ∧
    (flashPrepare s0 s1 s).2.erased = s.erased ∧ (flashPrepare s0 s1 s).2.result = s.result ∧
    (flashPrepare s0 s1 s).2.trailerRd = s.trailerRd ∧ (flashPrepare s0 s1 s).2.arg0 = s.arg0 ∧
    (flashPrepare s0 s1 s).2.arg1 = s.arg1 ∧ (flashPrepare s0 s1 s).2.ok = s.ok ∧
    (flashPrepare s0 s1 s).2.appValid = s.appValid ∧ (flashPrepare s0 s1 s).2.malformed = s.malformed ∧
    (flashPrepare s0 s1 s).2.pktTimeout = s.pktTimeout ∧ (flashPrepare s0 s1 s).2.cmdErr = s.cmdErr ∧
    (flashPrepare s0 s1 s).2.resetReq = s.resetReq ∧ (flashPrepare s0 s1 s).2.pktbuf = s.pktbuf ∧
    (flashPrepare s0 s1 s).2.scratch = s.scratch ∧ (flashPrepare s0 s1 s).2.cfg = s.cfg ∧
    (flashPrepare s0 s1 s).2.flash = s.flash ∧ (flashPrepare s0 s1 s).2.stuck = s.stuck ∧
    (flashPrepare s0 s1 s).2.timer = s.timer ∧ (flashPrepare s0 s1 s).2.turns = s.turns ∧
    (flashPrepare s0 s1 s).2.ret = s.ret ∧ (flashPrepare s0 s1 s).2.hostRd = s.hostRd := by
  simp [flashPrepare_eq]

theorem scramblePiece_eq (s : State) (p : Sector) :
    scramblePiece s p =
      { (drawBytes p.size s).2 with flash := s.flash.patch s.stuck p.base (drawBytes p.size s).1 } := rfl

@[simp] theorem scramblePiece_fields (s : State) (p : Sector) :
    (scramblePiece s p).top = s.top ∧ (scramblePiece s p).rxs = s.rxs ∧ (scramblePiece s p).offset = s.offset ∧
    (scramblePiece s p).size = s.size ∧ (scramblePiece s p).rxcrc = s.rxcrc ∧ (scramblePiece s p).pktnum = s.pktnum ∧
    (scramblePiece s p).pktnumInv = s.pktnumInv ∧ (scramblePiece s p).cursor = s.cursor ∧
    (scramblePiece s p).erased = s.erased ∧ (scramblePiece s p).result = s.result ∧
    (scramblePiece s p).trailerRd = s.trailerRd ∧ (scramblePiece s p).arg0 = s.arg0 ∧
    (scramblePiece s p).arg1 = s.arg1 ∧ (scramblePiece s p).ok = s.ok ∧ (scramblePiece s p).appValid = s.appValid ∧
    (scramblePiece s p).malformed = s.malformed ∧ (scramblePiece s p).pktTimeout = s.pktTimeout ∧
    (scramblePiece s p).cmdErr = s.cmdErr ∧ (scramblePiece s p).resetReq = s.resetReq ∧
    (scramblePiece s p).pktbuf = s.pktbuf ∧ (scramblePiece s p).scratch = s.scratch ∧
    (scramblePiece s p).cfg = s.cfg ∧ (scramblePiece s p).stuck = s.stuck ∧ (scramblePiece s p).timer = s.timer ∧
    (scramblePiece s p).history = s.history ∧ (scramblePiece s p).turns = s.turns ∧ (scramblePiece s p).ret = s.ret ∧
    (scramblePiece s p).hostRd = s.hostRd := by
  simp [scramblePiece_eq]

theorem foldl_scramblePiece_fields (ps : List Sector) (s : State) :
    (ps.foldl scramblePiece s).top = s.top ∧ (ps.foldl scramblePiece s).rxs = s.rxs ∧
    (ps.foldl scramblePiece s).offset = s.offset ∧ (ps.foldl scramblePiece s).size = s.size ∧
    (ps.foldl scramblePiece s).rxcrc = s.rxcrc ∧ (ps.foldl scramblePiece s).pktnum = s.pktnum ∧
    (ps.foldl scramblePiece s).pktnumInv = s.pktnumInv ∧ (ps.foldl scramblePiece s).cursor = s.cursor ∧
    (ps.foldl scramblePiece s).erased = s.erased ∧ (ps.foldl scramblePiece s).result = s.result ∧
    (ps.foldl scramblePiece s).trailerRd = s.trailerRd ∧ (ps.foldl scramblePiece s).arg0 = s.arg0 ∧
    (ps.foldl scramblePiece s).arg1 = s.arg1 ∧ (ps.foldl scramblePiece s).ok = s.ok ∧
    (ps.foldl scramblePiece s).appValid = s.appValid ∧ (ps.foldl scramblePiece s).malformed = s.malformed ∧
    (ps.foldl scramblePiece s).pktTimeout = s.pktTimeout ∧ (ps.foldl scramblePiece s).cmdErr = s.cmdErr ∧
    (ps.foldl scramblePiece s).resetReq = s.resetReq ∧ (ps.foldl scramblePiece s).pktbuf = s.pktbuf ∧
    (ps.foldl scramblePiece s).scratch = s.scratch ∧ (ps.foldl scramblePiece s).cfg = s.cfg ∧
    (ps.foldl scramblePiece s).stuck = s.stuck ∧ (ps.foldl scramblePiece s).timer = s.timer ∧
    (ps.foldl scramblePiece s).history = s.history ∧ (ps.foldl scramblePiece s).turns = s.turns ∧
    (ps.foldl scramblePiece s).ret = s.ret ∧ (ps.foldl scramblePiece s).hostRd = s.hostRd := by
  induction ps generalizing s with
  | nil => simp
  | cons p ps ih => simpa using ih (scramblePiece s p)

@[simp] theorem scrambleSectors_fields (s0 s1 : Nat) (s : State) :
    (scrambleSectors s0 s1 s).top = s.top ∧ (scrambleSectors s0 s1 s).rxs = s.rxs ∧
    (scrambleSectors s0 s1 s).offset = s.offset ∧ (scrambleSectors s0 s1 s).size = s.size ∧
    (scrambleSectors s0 s1 s).rxcrc = s.rxcrc ∧ (scrambleSectors s0 s1 s).pktnum = s.pktnum ∧
    (scrambleSectors s0 s1 s).pktnumInv = s.pktnumInv ∧ (scrambleSectors s0 s1 s).cursor = s.cursor ∧
    (scrambleSectors s0 s1 s).erased = s.erased ∧ (scrambleSectors s0 s1 s).result = s.result ∧
    (scrambleSectors s0 s1 s).trailerRd = s.trailerRd ∧ (scrambleSectors s0 s1 s).arg0 = s.arg0 ∧
    (scrambleSectors s0 s1 s).arg1 = s.arg1 ∧ (scrambleSectors s0 s1 s).ok = s.ok ∧
    (scrambleSectors s0 s1 s).appValid = s.appValid ∧ (scrambleSectors s0 s1 s).malformed = s.malformed ∧
    (scrambleSectors s0 s1 s).pktTimeout = s.pktTimeout ∧ (scrambleSectors s0 s1 s).cmdErr = s.cmdErr ∧
    (scrambleSectors s0 s1 s).resetReq = s.resetReq ∧ (scrambleSectors s0 s1 s).pktbuf = s.pktbuf ∧
    (scrambleSectors s0 s1 s).scratch = s.scratch ∧ (scrambleSectors s0 s1 s).cfg = s.cfg ∧
    (scrambleSectors s0 s1 s).stuck = s.stuck ∧ (scrambleSectors s0 s1 s).timer = s.timer ∧
    (scrambleSectors s0 s1 s).history = s.history ∧ (scrambleSectors s0 s1 s).turns = s.turns ∧
    (scrambleSectors s0 s1 s).ret = s.ret ∧ (scrambleSectors s0 s1 s).hostRd = s.hostRd := by
  exact foldl_scramblePiece_fields _ s

theorem flashErase_eq (s0 s1 : Nat) (s : State) :
    flashErase s0 s1 s =
      match (drawErase s).1 with
      | .ok =>
        (.ok, emit (.flashErase s0 s1 .ok)
          { (drawErase s).2 with flash := s.flash.eraseSectors s.cfg s.stuck s0 s1 })
      | .fail => (.fail, emit (.flashErase s0 s1 .fail) (scrambleSectors s0 s1 (drawErase s).2)) := by
  unfold flashErase
  rcases h : drawErase s with ⟨_ | _, t⟩
  · have : t = (drawErase s).2 := by rw [h]
    simp [this]
  · rfl

@[simp] theorem flashErase_answer (s0 s1 : Nat) (s : State) : (flashErase s0 s1 s).1 = (drawErase s).1 := by
  rw [flashErase_eq]; split <;> simp_all

@[simp] theorem flashErase_fields (s0 s1 : Nat) (s : State) :
    (flashErase s0 s1 s).2.top = s.top ∧ (flashErase s0 s1 s).2.rxs = s.rxs ∧
    (flashErase s0 s1 s).2.offset = s.offset ∧ (flashErase s0 s1 s).2.size = s.size ∧
    (flashErase s0 s1 s).2.rxcrc = s.rxcrc ∧ (flashErase s0 s1 s).2.pktnum = s.pktnum ∧
    (flashErase s0 s1 s).2.pktnumInv = s.pktnumInv ∧ (flashErase s0 s1 s).2.cursor = s.cursor ∧
    (flashErase s0 s1 s).2.erased = s.erased ∧ (flashErase s0 s1 s).2.result = s.result ∧
    (flashErase s0 s1 s).2.trailerRd = s.trailerRd ∧ (flashErase s0 s1 s).2.arg0 = s.arg0 ∧
    (flashErase s0 s1 s).2.arg1 = s.arg1 ∧ (flashErase s0 s1 s).2.ok = s.ok ∧
    (flashErase s0 s1 s).2.appValid = s.appValid ∧ (flashErase s0 s1 s).2.malformed = s.malformed ∧
    (flashErase s0 s1 s).2.pktTimeout = s.pktTimeout ∧ (flashErase s0 s1 s).2.cmdErr = s.cmdErr ∧
    (flashErase s0 s1 s).2.resetReq = s.resetReq ∧ (flashErase s0 s1 s).2.pktbuf = s.pktbuf ∧
    (flashErase s0 s1 s).2.scratch = s.scratch ∧ (flashErase s0 s1 s).2.cfg = s.cfg ∧
    (flashErase s0 s1 s).2.stuck = s.stuck ∧ (flashErase s0 s1 s).2.timer = s.timer ∧
    (flashErase s0 s1 s).2.turns = s.turns ∧ (flashErase s0 s1 s).2.ret = s.ret ∧
    (flashErase s0 s1 s).2.hostRd = s.hostRd := by
  rw [flashErase_eq]; split <;> simp

theorem flashWrite_eq (addr : Nat) (buf : Buf) (n : Nat) (s : State) :
    flashWrite addr buf n s =
      match (drawWrite s).1 with
      | .ok =>
        (.ok, emit (.flashWrite addr buf n .ok)
          { (drawWrite s).2 with flash := s.flash.patch s.stuck addr ((bufBytes buf s).take n) })
      | .fail =>
        (.fail, emit (.flashWrite addr buf n .fail)
          { (drawBytes n (drawWrite s).2).2 with
            flash := s.flash.patch s.stuck addr (drawBytes n (drawWrite s).2).1 }) := by
  unfold flashWrite
  rcases h : drawWrite s with ⟨_ | _, t⟩
  · have : t = (drawWrite s).2 := by rw [h]
    cases buf <;> simp [this, bufBytes]
  · have : t = (drawWrite s).2 := by rw [h]
    simp [this]

@[simp] theorem flashWrite_answer (addr : Nat) (buf : Buf) (n : Nat) (s : State) :
    (flashWrite addr buf n s).1 = (drawWrite s).1 := by
  rw [flashWrite_eq]; split <;> simp_all

@[simp] theorem flashWrite_fields (addr : Nat) (buf : Buf) (n : Nat) (s : State) :
    (flashWrite addr buf n s).2.top = s.top ∧ (flashWrite addr buf n s).2.rxs = s.rxs ∧
    (flashWrite addr buf n s).2.offset = s.offset ∧ (flashWrite addr buf n s).2.size = s.size ∧
    (flashWrite addr buf n s).2.rxcrc = s.rxcrc ∧ (flashWrite addr buf n s).2.pktnum = s.pktnum ∧
    (flashWrite addr buf n s).2.pktnumInv = s.pktnumInv ∧ (flashWrite addr buf n s).2.cursor = s.cursor ∧
    (flashWrite addr buf n s).2.erased = s.erased ∧ (flashWrite addr buf n s).2.result = s.result ∧
    (flashWrite addr buf n s).2.trailerRd = s.trailerRd ∧ (flashWrite addr buf n s).2.arg0 = s.arg0 ∧
    (flashWrite addr buf n s).2.arg1 = s.arg1 ∧ (flashWrite addr buf n s).2.ok = s.ok ∧
    (flashWrite addr buf n s).2.appValid = s.appValid ∧ (flashWrite addr buf n s).2.malformed = s.malformed ∧
    (flashWrite addr buf n s).2.pktTimeout = s.pktTimeout ∧ (flashWrite addr buf n s).2.cmdErr = s.cmdErr ∧
    (flashWrite addr buf n s).2.resetReq = s.resetReq ∧ (flashWrite addr buf n s).2.pktbuf = s.pktbuf ∧
    (flashWrite addr buf n s).2.scratch = s.scratch ∧ (flashWrite addr buf n s).2.cfg = s.cfg ∧
    (flashWrite addr buf n s).2.stuck = s.stuck ∧ (flashWrite addr buf n s).2.timer = s.timer ∧
    (flashWrite addr buf n s).2.turns = s.turns ∧ (flashWrite addr buf n s).2.ret = s.ret ∧
    (flashWrite addr buf n s).2.hostRd = s.hostRd := by
  rw [flashWrite_eq]; split <;> simp

theorem timerExpired_eq (s : State) :
    timerExpired s =
      (s.timer.latched || (drawTimer s).1,
        emit (.timerExpired (s.timer.latched || (drawTimer s).1))
          { (drawTimer s).2 with timer := timerAfter (s.timer.latched || (drawTimer s).1) s.timer }) := by
  unfold timerExpired
  rcases h : drawTimer s with ⟨d, t⟩
  have : t = (drawTimer s).2 := by rw [h]
  simp [this]

@[simp] theorem timerExpired_fields (s : State) :
    (timerExpired s).2.top = s.top ∧ (timerExpired s).2.rxs = s.rxs ∧ (timerExpired s).2.offset = s.offset ∧
    (timerExpired s).2.size = s.size ∧ (timerExpired s).2.rxcrc = s.rxcrc ∧ (timerExpired s).2.pktnum = s.pktnum ∧
    (timerExpired s).2.pktnumInv = s.pktnumInv ∧ (timerExpired s).2.cursor = s.cursor ∧
    (timerExpired s).2.erased = s.erased ∧ (timerExpired s).2.result = s.result ∧
    (timerExpired s).2.trailerRd = s.trailerRd ∧ (timerExpired s).2.arg0 = s.arg0 ∧
    (timerExpired s).2.arg1 = s.arg1 ∧ (timerExpired s).2.ok = s.ok ∧ (timerExpired s).2.appValid = s.appValid ∧
    (timerExpired s).2.malformed = s.malformed ∧ (timerExpired s).2.pktTimeout = s.pktTimeout ∧
    (timerExpired s).2.cmdErr = s.cmdErr ∧ (timerExpired s).2.resetReq = s.resetReq ∧
    (timerExpired s).2.pktbuf = s.pktbuf ∧ (timerExpired s).2.scratch = s.scratch ∧ (timerExpired s).2.cfg = s.cfg ∧
    (timerExpired s).2.flash = s.flash ∧ (timerExpired s).2.stuck = s.stuck ∧ (timerExpired s).2.turns = s.turns ∧
    (timerExpired s).2.ret = s.ret ∧ (timerExpired s).2.hostRd = s.hostRd := by
  simp [timerExpired_eq]

theorem rxSample_eq (s : State) : rxSample s = ((drawRx s).1, emit (.rx (drawRx s).1) (drawRx s).2) := rfl

@[simp] theorem rxSample_fields (s : State) :
    (rxSample s).2.top = s.top ∧ (rxSample s).2.rxs = s.rxs ∧ (rxSample s).2.offset = s.offset ∧
    (rxSample s).2.size = s.size ∧ (rxSample s).2.rxcrc = s.rxcrc ∧ (rxSample s).2.pktnum = s.pktnum ∧
    (rxSample s).2.pktnumInv = s.pktnumInv ∧ (rxSample s).2.cursor = s.cursor ∧ (rxSample s).2.erased = s.erased ∧
    (rxSample s).2.result = s.result ∧ (rxSample s).2.trailerRd = s.trailerRd ∧ (rxSample s).2.arg0 = s.arg0 ∧
    (rxSample s).2.arg1 = s.arg1 ∧ (rxSample s).2.ok = s.ok ∧ (rxSample s).2.appValid = s.appValid ∧
    (rxSample s).2.malformed = s.malformed ∧ (rxSample s).2.pktTimeout = s.pktTimeout ∧
    (rxSample s).2.cmdErr = s.cmdErr ∧ (rxSample s).2.resetReq = s.resetReq ∧ (rxSample s).2.pktbuf = s.pktbuf ∧
    (rxSample s).2.scratch = s.scratch ∧ (rxSample s).2.cfg = s.cfg ∧ (rxSample s).2.flash = s.flash ∧
    (rxSample s).2.stuck = s.stuck ∧ (rxSample s).2.timer = s.timer ∧ (rxSample s).2.turns = s.turns ∧
    (rxSample s).2.ret = s.ret ∧ (rxSample s).2.hostRd = s.hostRd := by
  simp [rxSample_eq]

theorem sampleLine_eq (s : State) :
    sampleLine s =
      match (rxSample s).1 with
      | some b => (.byte b, (rxSample s).2)
      | none =>
        (if (timerExpired (rxSample s).2).1 then .expired else .quiet, (timerExpired (rxSample s).2).2) := by
  unfold sampleLine
  rcases rxSample s with ⟨_ | b, t⟩
  · dsimp only
    rcases timerExpired t with ⟨_ | _, u⟩ <;> rfl
  · rfl

@[simp] theorem sampleLine_fields (s : State) :
    (sampleLine s).2.top = s.top ∧ (sampleLine s).2.rxs = s.rxs ∧ (sampleLine s).2.offset = s.offset ∧
    (sampleLine s).2.size = s.size ∧ (sampleLine s).2.rxcrc = s.rxcrc ∧ (sampleLine s).2.pktnum = s.pktnum ∧
    (sampleLine s).2.pktnumInv = s.pktnumInv ∧ (sampleLine s).2.cursor = s.cursor ∧
    (sampleLine s).2.erased = s.erased ∧ (sampleLine s).2.result = s.result ∧
    (sampleLine s).2.trailerRd = s.trailerRd ∧ (sampleLine s).2.arg0 = s.arg0 ∧ (sampleLine s).2.arg1 = s.arg1 ∧
    (sampleLine s).2.ok = s.ok ∧ (sampleLine s).2.appValid = s.appValid ∧ (sampleLine s).2.malformed = s.malformed ∧
    (sampleLine s).2.pktTimeout = s.pktTimeout ∧ (sampleLine s).2.cmdErr = s.cmdErr ∧
    (sampleLine s).2.resetReq = s.resetReq ∧ (sampleLine s).2.pktbuf = s.pktbuf ∧
    (sampleLine s).2.scratch = s.scratch ∧ (sampleLine s).2.cfg = s.cfg ∧ (sampleLine s).2.flash = s.flash ∧
    (sampleLine s).2.stuck = s.stuck ∧ (sampleLine s).2.turns = s.turns ∧ (sampleLine s).2.ret = s.ret ∧
    (sampleLine s).2.hostRd = s.hostRd := by
  rw [sampleLine_eq]; split <;> simp

@[simp] theorem advanceCursor_fields (len : Nat) (s : State) :
    (advanceCursor len s).top = s.top ∧ (advanceCursor len s).rxs = s.rxs ∧ (advanceCursor len s).offset = s.offset ∧
    (advanceCursor len s).size = s.size ∧ (advanceCursor len s).rxcrc = s.rxcrc ∧
    (advanceCursor len s).pktnum = s.pktnum ∧ (advanceCursor len s).pktnumInv = s.pktnumInv ∧
    (advanceCursor len s).erased = s.erased ∧ (advanceCursor len s).result = s.result ∧
    (advanceCursor len s).trailerRd = s.trailerRd ∧ (advanceCursor len s).arg0 = s.arg0 ∧
    (advanceCursor len s).arg1 = s.arg1 ∧ (advanceCursor len s).ok = s.ok ∧
    (advanceCursor len s).appValid = s.appValid ∧ (advanceCursor len s).malformed = s.malformed ∧
    (advanceCursor len s).pktTimeout = s.pktTimeout ∧ (advanceCursor len s).cmdErr = s.cmdErr ∧
    (advanceCursor len s).resetReq = s.resetReq ∧ (advanceCursor len s).pktbuf = s.pktbuf ∧
    (advanceCursor len s).scratch = s.scratch ∧ (advanceCursor len s).cfg = s.cfg ∧
    (advanceCursor len s).flash = s.flash ∧ (advanceCursor len s).stuck = s.stuck ∧
    (advanceCursor len s).timer = s.timer ∧ (advanceCursor len s).history = s.history ∧
    (advanceCursor len s).turns = s.turns ∧ (advanceCursor len s).ret = s.ret ∧
    (advanceCursor len s).hostRd = s.hostRd := by
  unfold advanceCursor; split <;> and_intros <;> rfl

@[simp] theorem sendPoll_fields (s : State) :
    (sendPoll s).top = s.top ∧ (sendPoll s).rxs = s.rxs ∧ (sendPoll s).offset = s.offset ∧
    (sendPoll s).size = s.size ∧ (sendPoll s).rxcrc = s.rxcrc ∧ (sendPoll s).pktnum = s.pktnum ∧
    (sendPoll s).pktnumInv = s.pktnumInv ∧ (sendPoll s).cursor = s.cursor ∧ (sendPoll s).erased = s.erased ∧
    (sendPoll s).result = s.result ∧ (sendPoll s).trailerRd = s.trailerRd ∧ (sendPoll s).arg0 = s.arg0 ∧
    (sendPoll s).arg1 = s.arg1 ∧ (sendPoll s).ok = s.ok ∧ (sendPoll s).appValid = s.appValid ∧
    (sendPoll s).malformed = s.malformed ∧ (sendPoll s).pktTimeout = s.pktTimeout ∧ (sendPoll s).cmdErr = s.cmdErr ∧
    (sendPoll s).resetReq = s.resetReq ∧ (sendPoll s).pktbuf = s.pktbuf ∧ (sendPoll s).scratch = s.scratch ∧
    (sendPoll s).cfg = s.cfg ∧ (sendPoll s).flash = s.flash ∧ (sendPoll s).stuck = s.stuck ∧
    (sendPoll s).draws = s.draws ∧ (sendPoll s).turns = s.turns ∧ (sendPoll s).ret = s.ret ∧
    (sendPoll s).hostRd = s.hostRd := by
  simp [sendPoll]

@[simp] theorem openPacket_fields (z : SizeClass) (s : State) :
    (openPacket z s).top = s.top ∧ (openPacket z s).rxs = s.rxs ∧ (openPacket z s).rxcrc = s.rxcrc ∧
    (openPacket z s).pktnum = s.pktnum ∧ (openPacket z s).pktnumInv = s.pktnumInv ∧
    (openPacket z s).cursor = s.cursor ∧ (openPacket z s).erased = s.erased ∧ (openPacket z s).result = s.result ∧
    (openPacket z s).trailerRd = s.trailerRd ∧ (openPacket z s).arg0 = s.arg0 ∧ (openPacket z s).arg1 = s.arg1 ∧
    (openPacket z s).ok = s.ok ∧ (openPacket z s).appValid = s.appValid ∧ (openPacket z s).malformed = s.malformed ∧
    (openPacket z s).pktTimeout = s.pktTimeout ∧ (openPacket z s).cmdErr = s.cmdErr ∧
    (openPacket z s).resetReq = s.resetReq ∧ (openPacket z s).pktbuf = s.pktbuf ∧
    (openPacket z s).scratch = s.scratch ∧ (openPacket z s).cfg = s.cfg ∧ (openPacket z s).flash = s.flash ∧
    (openPacket z s).stuck = s.stuck ∧ (openPacket z s).draws = s.draws ∧ (openPacket z s).turns = s.turns ∧
    (openPacket z s).ret = s.ret ∧ (openPacket z s).hostRd = s.hostRd := by
  simp [openPacket]

@[simp] theorem openFirstPacket_fields (z : SizeClass) (s : State) :
    (openFirstPacket z s).top = s.top ∧ (openFirstPacket z s).rxcrc = s.rxcrc ∧
    (openFirstPacket z s).pktnum = s.pktnum ∧ (openFirstPacket z s).pktnumInv = s.pktnumInv ∧
    (openFirstPacket z s).cursor = s.cursor ∧ (openFirstPacket z s).erased = s.erased ∧
    (openFirstPacket z s).result = s.result ∧ (openFirstPacket z s).trailerRd = s.trailerRd ∧
    (openFirstPacket z s).arg0 = s.arg0 ∧ (openFirstPacket z s).arg1 = s.arg1 ∧ (openFirstPacket z s).ok = s.ok ∧
    (openFirstPacket z s).appValid = s.appValid ∧ (openFirstPacket z s).malformed = s.malformed ∧
    (openFirstPacket z s).pktTimeout = s.pktTimeout ∧ (openFirstPacket z s).cmdErr = s.cmdErr ∧
    (openFirstPacket z s).resetReq = s.resetReq ∧ (openFirstPacket z s).pktbuf = s.pktbuf ∧
    (openFirstPacket z s).scratch = s.scratch ∧ (openFirstPacket z s).cfg = s.cfg ∧
    (openFirstPacket z s).flash = s.flash ∧ (openFirstPacket z s).stuck = s.stuck ∧
    (openFirstPacket z s).draws = s.draws ∧ (openFirstPacket z s).turns = s.turns ∧
    (openFirstPacket z s).ret = s.ret ∧ (openFirstPacket z s).hostRd = s.hostRd := by
  simp [openFirstPacket]

theorem crcOfFlash_eq (lo n : Nat) (s : State) :
    crcOfFlash lo n s = (crcOf (s.flash.readRange lo n), (memReadRange lo n s).2) := rfl

@[simp] theorem crcOfFlash_value (lo n : Nat) (s : State) :
    (crcOfFlash lo n s).1 = crcOf (s.flash.readRange lo n) := rfl

@[simp] theorem crcOfFlash_state (lo n : Nat) (s : State) : (crcOfFlash lo n s).2 = (memReadRange lo n s).2 := rfl

@[simp] theorem imageChecksum_value (s : State) :
    (imageChecksum s).1 = crcOf (s.flash.readRange s.cfg.imgStart (dataLen s.cfg)) := rfl

@[simp] theorem imageChecksum_state (s : State) :
    (imageChecksum s).2 = (memReadRange s.cfg.imgStart (dataLen s.cfg) s).2 := rfl

theorem andThen_ok {r : Answer × State} {k : State → Answer × State} (h : r.1 = .ok) : andThen r k = k r.2 := by
  simp [andThen, h]

theorem andThen_fail {r : Answer × State} {k : State → Answer × State} (h : r.1 = .fail) :
    andThen r k = failed r.2 := by
  simp [andThen, h]

/-- What a whole operation leaves alone: a part of the state that clearing `OK` and each of its requests leave alone. -/
theorem andThen_keeps {α : Type} (f : State → α) {x : α} {r : Answer × State} {k : State → Answer × State}
    (hok : ∀ t, f (failed t).2 = f t) (hr : f r.2 = x) (hk : f r.2 = x → f (k r.2).2 = x) :
    f (andThen r k).2 = x := by
  unfold andThen
  split
  · exact hk hr
  · rw [hok, hr]

@[simp] theorem sessionErase_fields (s : State) :
    (sessionErase s).2.top = s.top ∧ (sessionErase s).2.rxs = s.rxs ∧ (sessionErase s).2.offset = s.offset ∧
    (sessionErase s).2.size = s.size ∧ (sessionErase s).2.rxcrc = s.rxcrc ∧ (sessionErase s).2.pktnum = s.pktnum ∧
    (sessionErase s).2.pktnumInv = s.pktnumInv ∧ (sessionErase s).2.cursor = s.cursor ∧
    (sessionErase s).2.result = s.result ∧ (sessionErase s).2.trailerRd = s.trailerRd ∧
    (sessionErase s).2.arg0 = s.arg0 ∧ (sessionErase s).2.arg1 = s.arg1 ∧ (sessionErase s).2.appValid = s.appValid ∧
    (sessionErase s).2.malformed = s.malformed ∧ (sessionErase s).2.pktTimeout = s.pktTimeout ∧
    (sessionErase s).2.cmdErr = s.cmdErr ∧ (sessionErase s).2.resetReq = s.resetReq ∧
    (sessionErase s).2.pktbuf = s.pktbuf ∧ (sessionErase s).2.scratch = s.scratch ∧ (sessionErase s).2.cfg = s.cfg ∧
    (sessionErase s).2.stuck = s.stuck ∧ (sessionErase s).2.timer = s.timer ∧ (sessionErase s).2.turns = s.turns ∧
    (sessionErase s).2.ret = s.ret ∧ (sessionErase s).2.hostRd = s.hostRd := by
  unfold sessionErase
  and_intros <;> refine andThen_keeps _ ?_ ?_ fun _ => andThen_keeps _ ?_ ?_ fun _ => ?_ <;> simp

theorem eraseIfOwed_eq (s : State) : eraseIfOwed s = if s.erased then (.ok, s) else sessionErase s := rfl

@[simp] theorem eraseIfOwed_fields (s : State) :
    (eraseIfOwed s).2.top = s.top ∧ (eraseIfOwed s).2.rxs = s.rxs ∧ (eraseIfOwed s).2.offset = s.offset ∧
    (eraseIfOwed s).2.size = s.size ∧ (eraseIfOwed s).2.rxcrc = s.rxcrc ∧ (eraseIfOwed s).2.pktnum = s.pktnum ∧
    (eraseIfOwed s).2.pktnumInv = s.pktnumInv ∧ (eraseIfOwed s).2.cursor = s.cursor ∧
    (eraseIfOwed s).2.result = s.result ∧ (eraseIfOwed s).2.trailerRd = s.trailerRd ∧
    (eraseIfOwed s).2.arg0 = s.arg0 ∧ (eraseIfOwed s).2.arg1 = s.arg1 ∧ (eraseIfOwed s).2.appValid = s.appValid ∧
    (eraseIfOwed s).2.malformed = s.malformed ∧ (eraseIfOwed s).2.pktTimeout = s.pktTimeout ∧
    (eraseIfOwed s).2.cmdErr = s.cmdErr ∧ (eraseIfOwed s).2.resetReq = s.resetReq ∧
    (eraseIfOwed s).2.pktbuf = s.pktbuf ∧ (eraseIfOwed s).2.scratch = s.scratch ∧ (eraseIfOwed s).2.cfg = s.cfg ∧
    (eraseIfOwed s).2.stuck = s.stuck ∧ (eraseIfOwed s).2.timer = s.timer ∧ (eraseIfOwed s).2.turns = s.turns ∧
    (eraseIfOwed s).2.ret = s.ret ∧ (eraseIfOwed s).2.hostRd = s.hostRd := by
  unfold eraseIfOwed; split <;> simp

theorem verify_eq (len : Nat) (s : State) :
    verify len s =
      (if (flashCompare s.cursor.toNat .pktbuf len s).1 then .ok else .fail,
        (flashCompare s.cursor.toNat .pktbuf len s).2) := rfl

@[simp] theorem verify_fields (len : Nat) (s : State) :
    (verify len s).2.top = s.top ∧ (verify len s).2.rxs = s.rxs ∧ (verify len s).2.offset = s.offset ∧
    (verify len s).2.size = s.size ∧ (verify len s).2.rxcrc = s.rxcrc ∧ (verify len s).2.pktnum = s.pktnum ∧
    (verify len s).2.pktnumInv = s.pktnumInv ∧ (verify len s).2.cursor = s.cursor ∧
    (verify len s).2.erased = s.erased ∧ (verify len s).2.result = s.result ∧
    (verify len s).2.trailerRd = s.trailerRd ∧ (verify len s).2.arg0 = s.arg0 ∧ (verify len s).2.arg1 = s.arg1 ∧
    (verify len s).2.ok = s.ok ∧ (verify len s).2.appValid = s.appValid ∧ (verify len s).2.malformed = s.malformed ∧
    (verify len s).2.pktTimeout = s.pktTimeout ∧ (verify len s).2.cmdErr = s.cmdErr ∧
    (verify len s).2.resetReq = s.resetReq ∧ (verify len s).2.pktbuf = s.pktbuf ∧
    (verify len s).2.scratch = s.scratch ∧ (verify len s).2.cfg = s.cfg ∧ (verify len s).2.flash = s.flash ∧
    (verify len s).2.stuck = s.stuck ∧ (verify len s).2.timer = s.timer ∧ (verify len s).2.draws = s.draws ∧
    (verify len s).2.turns = s.turns ∧ (verify len s).2.ret = s.ret ∧ (verify len s).2.hostRd = s.hostRd := by
  simp [verify_eq]

@[simp] theorem writeVerified_fields (len : Nat) (s : State) :
    (writeVerified len s).2.top = s.top ∧ (writeVerified len s).2.rxs = s.rxs ∧
    (writeVerified len s).2.offset = s.offset ∧ (writeVerified len s).2.size = s.size ∧
    (writeVerified len s).2.rxcrc = s.rxcrc ∧ (writeVerified len s).2.pktnum = s.pktnum ∧
    (writeVerified len s).2.pktnumInv = s.pktnumInv ∧ (writeVerified len s).2.erased = s.erased ∧
    (writeVerified len s).2.result = s.result ∧ (writeVerified len s).2.trailerRd = s.trailerRd ∧
    (writeVerified len s).2.arg0 = s.arg0 ∧ (writeVerified len s).2.arg1 = s.arg1 ∧
    (writeVerified len s).2.appValid = s.appValid ∧ (writeVerified len s).2.malformed = s.malformed ∧
    (writeVerified len s).2.pktTimeout = s.pktTimeout ∧ (writeVerified len s).2.cmdErr = s.cmdErr ∧
    (writeVerified len s).2.resetReq = s.resetReq ∧ (writeVerified len s).2.pktbuf = s.pktbuf ∧
    (writeVerified len s).2.scratch = s.scratch ∧ (writeVerified len s).2.cfg = s.cfg ∧
    (writeVerified len s).2.stuck = s.stuck ∧ (writeVerified len s).2.timer = s.timer ∧
    (writeVerified len s).2.turns = s.turns ∧ (writeVerified len s).2.ret = s.ret ∧
    (writeVerified len s).2.hostRd = s.hostRd := by
  unfold writeVerified
  and_intros <;>
    refine andThen_keeps _ ?_ ?_ fun _ => andThen_keeps _ ?_ ?_ fun _ => andThen_keeps _ ?_ ?_ fun _ => ?_ <;> simp

@[simp] theorem program_fields (n : Nat) (s : State) :
    (program n s).2.top = s.top ∧ (program n s).2.rxs = s.rxs ∧ (program n s).2.offset = s.offset ∧
    (program n s).2.size = s.size ∧ (program n s).2.rxcrc = s.rxcrc ∧ (program n s).2.pktnum = s.pktnum ∧
    (program n s).2.pktnumInv = s.pktnumInv ∧ (program n s).2.result = s.result ∧
    (program n s).2.trailerRd = s.trailerRd ∧ (program n s).2.arg0 = s.arg0 ∧ (program n s).2.arg1 = s.arg1 ∧
    (program n s).2.appValid = s.appValid ∧ (program n s).2.malformed = s.malformed ∧
    (program n s).2.pktTimeout = s.pktTimeout ∧ (program n s).2.cmdErr = s.cmdErr ∧
    (program n s).2.resetReq = s.resetReq ∧ (program n s).2.pktbuf = s.pktbuf ∧ (program n s).2.scratch = s.scratch ∧
    (program n s).2.cfg = s.cfg ∧ (program n s).2.stuck = s.stuck ∧ (program n s).2.timer = s.timer ∧
    (program n s).2.turns = s.turns ∧ (program n s).2.ret = s.ret ∧ (program n s).2.hostRd = s.hostRd := by
  unfold program
  split
  · simp
  · and_intros <;> refine andThen_keeps _ ?_ ?_ fun _ => ?_ <;> simp

theorem copyUnit_eq (v : Half) (s : State) :
    copyUnit v s =
      { (memReadRange (trailerBase s.cfg) s.cfg.trailerUnit s).2 with
        scratch := patchedUnit s.cfg v (s.flash.readRange (trailerBase s.cfg) s.cfg.trailerUnit) } := rfl

@[simp] theorem copyUnit_scratch (v : Half) (s : State) :
    (copyUnit v s).scratch = patchedUnit s.cfg v (s.flash.readRange (trailerBase s.cfg) s.cfg.trailerUnit) := rfl

@[simp] theorem copyUnit_fields (v : Half) (s : State) :
    (copyUnit v s).top = s.top ∧ (copyUnit v s).rxs = s.rxs ∧ (copyUnit v s).offset = s.offset ∧
    (copyUnit v s).size = s.size ∧ (copyUnit v s).rxcrc = s.rxcrc ∧ (copyUnit v s).pktnum = s.pktnum ∧
    (copyUnit v s).pktnumInv = s.pktnumInv ∧ (copyUnit v s).cursor = s.cursor ∧ (copyUnit v s).erased = s.erased ∧
    (copyUnit v s).result = s.result ∧ (copyUnit v s).trailerRd = s.trailerRd ∧ (copyUnit v s).arg0 = s.arg0 ∧
    (copyUnit v s).arg1 = s.arg1 ∧ (copyUnit v s).ok = s.ok ∧ (copyUnit v s).appValid = s.appValid ∧
    (copyUnit v s).malformed = s.malformed ∧ (copyUnit v s).pktTimeout = s.pktTimeout ∧
    (copyUnit v s).cmdErr = s.cmdErr ∧ (copyUnit v s).resetReq = s.resetReq ∧ (copyUnit v s).pktbuf = s.pktbuf ∧
    (copyUnit v s).cfg = s.cfg ∧ (copyUnit v s).flash = s.flash ∧ (copyUnit v s).stuck = s.stuck ∧
    (copyUnit v s).timer = s.timer ∧ (copyUnit v s).draws = s.draws ∧ (copyUnit v s).turns = s.turns ∧
    (copyUnit v s).ret = s.ret ∧ (copyUnit v s).hostRd = s.hostRd := by
  simp [copyUnit_eq]

@[simp] theorem rewriteUnit_fields (s : State) :
    (rewriteUnit s).2.top = s.top ∧ (rewriteUnit s).2.rxs = s.rxs ∧ (rewriteUnit s).2.offset = s.offset ∧
    (rewriteUnit s).2.size = s.size ∧ (rewriteUnit s).2.rxcrc = s.rxcrc ∧ (rewriteUnit s).2.pktnum = s.pktnum ∧
    (rewriteUnit s).2.pktnumInv = s.pktnumInv ∧ (rewriteUnit s).2.cursor = s.cursor ∧
    (rewriteUnit s).2.erased = s.erased ∧ (rewriteUnit s).2.result = s.result ∧
    (rewriteUnit s).2.trailerRd = s.trailerRd ∧ (rewriteUnit s).2.arg0 = s.arg0 ∧ (rewriteUnit s).2.arg1 = s.arg1 ∧
    (rewriteUnit s).2.appValid = s.appValid ∧ (rewriteUnit s).2.malformed = s.malformed ∧
    (rewriteUnit s).2.pktTimeout = s.pktTimeout ∧ (rewriteUnit s).2.cmdErr = s.cmdErr ∧
    (rewriteUnit s).2.resetReq = s.resetReq ∧ (rewriteUnit s).2.pktbuf = s.pktbuf ∧
    (rewriteUnit s).2.scratch = s.scratch ∧ (rewriteUnit s).2.cfg = s.cfg ∧ (rewriteUnit s).2.stuck = s.stuck ∧
    (rewriteUnit s).2.timer = s.timer ∧ (rewriteUnit s).2.turns = s.turns ∧ (rewriteUnit s).2.ret = s.ret ∧
    (rewriteUnit s).2.hostRd = s.hostRd := by
  unfold rewriteUnit
  and_intros <;>
    refine andThen_keeps _ ?_ ?_ fun _ => andThen_keeps _ ?_ ?_ fun _ => andThen_keeps _ ?_ ?_ fun _ =>
      andThen_keeps _ ?_ ?_ fun _ => ?_ <;> simp

@[simp] theorem writeTrailer_fields (v : Half) (s : State) :
    (writeTrailer v s).2.top = s.top ∧ (writeTrailer v s).2.rxs = s.rxs ∧ (writeTrailer v s).2.offset = s.offset ∧
    (writeTrailer v s).2.size = s.size ∧ (writeTrailer v s).2.rxcrc = s.rxcrc ∧
    (writeTrailer v s).2.pktnum = s.pktnum ∧ (writeTrailer v s).2.pktnumInv = s.pktnumInv ∧
    (writeTrailer v s).2.cursor = s.cursor ∧ (writeTrailer v s).2.erased = s.erased ∧
    (writeTrailer v s).2.result = s.result ∧ (writeTrailer v s).2.trailerRd = s.trailerRd ∧
    (writeTrailer v s).2.arg0 = s.arg0 ∧ (writeTrailer v s).2.arg1 = s.arg1 ∧
    (writeTrailer v s).2.appValid = s.appValid ∧ (writeTrailer v s).2.malformed = s.malformed ∧
    (writeTrailer v s).2.pktTimeout = s.pktTimeout ∧ (writeTrailer v s).2.cmdErr = s.cmdErr ∧
    (writeTrailer v s).2.resetReq = s.resetReq ∧ (writeTrailer v s).2.pktbuf = s.pktbuf ∧
    (writeTrailer v s).2.cfg = s.cfg ∧ (writeTrailer v s).2.stuck = s.stuck ∧ (writeTrailer v s).2.timer = s.timer ∧
    (writeTrailer v s).2.turns = s.turns ∧ (writeTrailer v s).2.ret = s.ret ∧ (writeTrailer v s).2.hostRd = s.hostRd := by
  simp [writeTrailer]

theorem readTrailer_eq (s : State) :
    readTrailer s =
      (trailerValue (s.flash.read (trailerLoAddr s.cfg)) (s.flash.read (trailerHiAddr s.cfg)),
        { (memRead (trailerHiAddr s.cfg) (memRead (trailerLoAddr s.cfg) s).2).2 with
          trailerRd := trailerValue (s.flash.read (trailerLoAddr s.cfg)) (s.flash.read (trailerHiAddr s.cfg)) }) := rfl

@[simp] theorem readTrailer_fields (s : State) :
    (readTrailer s).2.top = s.top ∧ (readTrailer s).2.rxs = s.rxs ∧ (readTrailer s).2.offset = s.offset ∧
    (readTrailer s).2.size = s.size ∧ (readTrailer s).2.rxcrc = s.rxcrc ∧ (readTrailer s).2.pktnum = s.pktnum ∧
    (readTrailer s).2.pktnumInv = s.pktnumInv ∧ (readTrailer s).2.cursor = s.cursor ∧
    (readTrailer s).2.erased = s.erased ∧ (readTrailer s).2.result = s.result ∧ (readTrailer s).2.arg0 = s.arg0 ∧
    (readTrailer s).2.arg1 = s.arg1 ∧ (readTrailer s).2.ok = s.ok ∧ (readTrailer s).2.appValid = s.appValid ∧
    (readTrailer s).2.malformed = s.malformed ∧ (readTrailer s).2.pktTimeout = s.pktTimeout ∧
    (readTrailer s).2.cmdErr = s.cmdErr ∧ (readTrailer s).2.resetReq = s.resetReq ∧
    (readTrailer s).2.pktbuf = s.pktbuf ∧ (readTrailer s).2.scratch = s.scratch ∧ (readTrailer s).2.cfg = s.cfg ∧
    (readTrailer s).2.flash = s.flash ∧ (readTrailer s).2.stuck = s.stuck ∧ (readTrailer s).2.timer = s.timer ∧
    (readTrailer s).2.draws = s.draws ∧ (readTrailer s).2.turns = s.turns ∧ (readTrailer s).2.ret = s.ret ∧
    (readTrailer s).2.hostRd = s.hostRd := by
  simp [readTrailer_eq]

theorem compareImage_eq (t : Half) (s : State) :
    compareImage t s =
      (decide ((imageChecksum s).1 = t),
        setAppValid (decide ((imageChecksum s).1 = t)) { (imageChecksum s).2 with result := (imageChecksum s).1 }) := rfl

@[simp] theorem compareImage_fields (t : Half) (s : State) :
    (compareImage t s).2.top = s.top ∧ (compareImage t s).2.rxs = s.rxs ∧ (compareImage t s).2.offset = s.offset ∧
    (compareImage t s).2.size = s.size ∧ (compareImage t s).2.rxcrc = s.rxcrc ∧
    (compareImage t s).2.pktnum = s.pktnum ∧ (compareImage t s).2.pktnumInv = s.pktnumInv ∧
    (compareImage t s).2.cursor = s.cursor ∧ (compareImage t s).2.erased = s.erased ∧
    (compareImage t s).2.trailerRd = s.trailerRd ∧ (compareImage t s).2.arg0 = s.arg0 ∧
    (compareImage t s).2.arg1 = s.arg1 ∧ (compareImage t s).2.ok = s.ok ∧
    (compareImage t s).2.malformed = s.malformed ∧ (compareImage t s).2.pktTimeout = s.pktTimeout ∧
    (compareImage t s).2.cmdErr = s.cmdErr ∧ (compareImage t s).2.resetReq = s.resetReq ∧
    (compareImage t s).2.pktbuf = s.pktbuf ∧ (compareImage t s).2.scratch = s.scratch ∧
    (compareImage t s).2.cfg = s.cfg ∧ (compareImage t s).2.flash = s.flash ∧ (compareImage t s).2.stuck = s.stuck ∧
    (compareImage t s).2.timer = s.timer ∧ (compareImage t s).2.draws = s.draws ∧
    (compareImage t s).2.turns = s.turns ∧ (compareImage t s).2.ret = s.ret ∧ (compareImage t s).2.hostRd = s.hostRd := by
  simp [compareImage_eq]

theorem isAppValid_eq (s : State) :
    isAppValid s =
      if (readTrailer s).1 = erased16 then (false, setAppValid false (readTrailer s).2)
      else compareImage (readTrailer s).1 (readTrailer s).2 := rfl

@[simp] theorem isAppValid_fields (s : State) :
    (isAppValid s).2.top = s.top ∧ (isAppValid s).2.rxs = s.rxs ∧ (isAppValid s).2.offset = s.offset ∧
    (isAppValid s).2.size = s.size ∧ (isAppValid s).2.rxcrc = s.rxcrc ∧ (isAppValid s).2.pktnum = s.pktnum ∧
    (isAppValid s).2.pktnumInv = s.pktnumInv ∧ (isAppValid s).2.cursor = s.cursor ∧
    (isAppValid s).2.erased = s.erased ∧ (isAppValid s).2.arg0 = s.arg0 ∧ (isAppValid s).2.arg1 = s.arg1 ∧
    (isAppValid s).2.ok = s.ok ∧ (isAppValid s).2.malformed = s.malformed ∧
    (isAppValid s).2.pktTimeout = s.pktTimeout ∧ (isAppValid s).2.cmdErr = s.cmdErr ∧
    (isAppValid s).2.resetReq = s.resetReq ∧ (isAppValid s).2.pktbuf = s.pktbuf ∧
    (isAppValid s).2.scratch = s.scratch ∧ (isAppValid s).2.cfg = s.cfg ∧ (isAppValid s).2.flash = s.flash ∧
    (isAppValid s).2.stuck = s.stuck ∧ (isAppValid s).2.timer = s.timer ∧ (isAppValid s).2.draws = s.draws ∧
    (isAppValid s).2.turns = s.turns ∧ (isAppValid s).2.ret = s.ret ∧ (isAppValid s).2.hostRd = s.hostRd := by
  rw [isAppValid_eq]; split <;> simp

theorem replyTo_eq (r : Answer × State) : replyTo r = transmit (if r.1 = .ok then ackByte else nakByte) r.2 := by
  rcases r with ⟨_ | _, s⟩ <;> rfl

theorem closePacket_eq (s : State) :
    closePacket s =
      if crcOf (s.pktbuf.toList.take (pktLen s.size)) = s.rxcrc then replyTo (program (pktLen s.size) s)
      else transmit nakByte s := rfl

@[simp] theorem closePacket_fields (s : State) :
    (closePacket s).top = s.top ∧ (closePacket s).rxs = s.rxs ∧ (closePacket s).offset = s.offset ∧
    (closePacket s).size = s.size ∧ (closePacket s).rxcrc = s.rxcrc ∧ (closePacket s).pktnum = s.pktnum ∧
    (closePacket s).pktnumInv = s.pktnumInv ∧ (closePacket s).result = s.result ∧
    (closePacket s).trailerRd = s.trailerRd ∧ (closePacket s).arg0 = s.arg0 ∧ (closePacket s).arg1 = s.arg1 ∧
    (closePacket s).appValid = s.appValid ∧ (closePacket s).malformed = s.malformed ∧
    (closePacket s).pktTimeout = s.pktTimeout ∧ (closePacket s).cmdErr = s.cmdErr ∧
    (closePacket s).resetReq = s.resetReq ∧ (closePacket s).pktbuf = s.pktbuf ∧ (closePacket s).scratch = s.scratch ∧
    (closePacket s).cfg = s.cfg ∧ (closePacket s).stuck = s.stuck ∧ (closePacket s).timer = s.timer ∧
    (closePacket s).turns = s.turns ∧ (closePacket s).ret = s.ret ∧ (closePacket s).hostRd = s.hostRd := by
  rw [closePacket_eq]; split <;> simp [replyTo_eq]

@[simp] theorem crcCommand_fields (s : State) :
    (crcCommand s).top = s.top ∧ (crcCommand s).rxs = s.rxs ∧ (crcCommand s).offset = s.offset ∧
    (crcCommand s).size = s.size ∧ (crcCommand s).rxcrc = s.rxcrc ∧ (crcCommand s).pktnum = s.pktnum ∧
    (crcCommand s).pktnumInv = s.pktnumInv ∧ (crcCommand s).cursor = s.cursor ∧ (crcCommand s).erased = s.erased ∧
    (crcCommand s).trailerRd = s.trailerRd ∧ (crcCommand s).arg0 = s.arg0 ∧ (crcCommand s).arg1 = s.arg1 ∧
    (crcCommand s).appValid = s.appValid ∧ (crcCommand s).malformed = s.malformed ∧
    (crcCommand s).pktTimeout = s.pktTimeout ∧ (crcCommand s).cmdErr = s.cmdErr ∧
    (crcCommand s).resetReq = s.resetReq ∧ (crcCommand s).pktbuf = s.pktbuf ∧ (crcCommand s).scratch = s.scratch ∧
    (crcCommand s).cfg = s.cfg ∧ (crcCommand s).flash = s.flash ∧ (crcCommand s).stuck = s.stuck ∧
    (crcCommand s).timer = s.timer ∧ (crcCommand s).draws = s.draws ∧ (crcCommand s).turns = s.turns ∧
    (crcCommand s).ret = s.ret ∧ (crcCommand s).hostRd = s.hostRd := by
  unfold crcCommand; split <;> simp [crcOfFlash_eq]

theorem finishImage_eq (s : State) :
    finishImage s =
      (writeTrailer (imageChecksum s).1 { (imageChecksum s).2 with result := (imageChecksum s).1 }).2 := rfl

@[simp] theorem finishImage_fields (s : State) :
    (finishImage s).top = s.top ∧ (finishImage s).rxs = s.rxs ∧ (finishImage s).offset = s.offset ∧
    (finishImage s).size = s.size ∧ (finishImage s).rxcrc = s.rxcrc ∧ (finishImage s).pktnum = s.pktnum ∧
    (finishImage s).pktnumInv = s.pktnumInv ∧ (finishImage s).cursor = s.cursor ∧ (finishImage s).erased = s.erased ∧
    (finishImage s).trailerRd = s.trailerRd ∧ (finishImage s).arg0 = s.arg0 ∧ (finishImage s).arg1 = s.arg1 ∧
    (finishImage s).appValid = s.appValid ∧ (finishImage s).malformed = s.malformed ∧
    (finishImage s).pktTimeout = s.pktTimeout ∧ (finishImage s).cmdErr = s.cmdErr ∧
    (finishImage s).resetReq = s.resetReq ∧ (finishImage s).pktbuf = s.pktbuf ∧ (finishImage s).cfg = s.cfg ∧
    (finishImage s).stuck = s.stuck ∧ (finishImage s).timer = s.timer ∧ (finishImage s).turns = s.turns ∧
    (finishImage s).ret = s.ret ∧ (finishImage s).hostRd = s.hostRd := by
  simp [finishImage_eq]

end Sys2Proof.Machine
end

