-- ==== Sys2Proof/Laws/Memory.lean ====
section
/-!
SUPPORT. Flash as a memory: what a byte reads as after each operation, and that every operation keeps the canonical
form. Rules: spec/20_memory.md R64, R66, R67.
-/

namespace Sys2Proof.Machine

theorem Memory.read_of_not_mem {m : Memory} {a : Nat} (h : ∀ c ∈ m, c.1 ≠ a) : m.read a = unlistedByte := by
  induction m with
  | nil => rfl
  | cons c m ih =>
    have hc : c.1 ≠ a := h c (by simp)
    simp only [Memory.read, hc, if_false]
    exact ih fun d hd => h d (by simp [hd])

theorem Memory.read_append (m n : Memory) (a : Nat) :
    Memory.read (m ++ n) a = if a ∈ m.map Prod.fst then m.read a else Memory.read n a := by
  induction m with
  | nil => simp
  | cons c m ih =>
    by_cases hc : c.1 = a
    · simp [Memory.read, hc]
    · have : a ≠ c.1 := fun h => hc h.symm
      simp [Memory.read, hc, ih, this]

/-- Filtering by address leaves a byte as it was or unlists it. -/
theorem Memory.read_filter (m : Memory) (p : Nat → Bool) (a : Nat) :
    Memory.read (m.filter fun c => p c.1) a = if p a then m.read a else unlistedByte := by
  induction m with
  | nil => simp [Memory.read]
  | cons c m ih =>
    by_cases hp : p c.1
    · by_cases hc : c.1 = a
      · subst hc; simp [Memory.read, hp]
      · simp [hp, Memory.read, hc, ih]
    · rw [List.filter_cons_of_neg (by simpa using hp), ih]
      by_cases hc : c.1 = a
      · subst hc; simp [hp]
      · simp [Memory.read, hc]

/-- A read in a list of cells at consecutive addresses. -/
theorem Memory.read_cells (f : Nat × Byte → Byte) (bytes : List Byte) (lo a : Nat) (h : lo ≤ a) :
    Memory.read ((((List.range' lo bytes.length).zip bytes).map fun c => (c.1, f c)).filter
        (fun c => decide (c.2 ≠ unlistedByte))) a
      = match bytes[a - lo]? with
        | some b => f (a, b)
        | none => unlistedByte := by
  induction bytes generalizing lo with
  | nil => simp [Memory.read]
  | cons b bytes ih =>
    have hr : List.range' lo (b :: bytes).length = lo :: List.range' (lo + 1) bytes.length := by
      simp [List.range'_succ]
    rw [hr, List.zip_cons_cons, List.map_cons]
    by_cases hlo : lo = a
    · subst hlo
      by_cases hf : f (lo, b) = unlistedByte
      · rw [List.filter_cons_of_neg (by simpa using hf)]
        simp only [Nat.sub_self, List.getElem?_cons_zero, hf]
        refine Memory.read_of_not_mem fun c hc => ?_
        simp only [List.mem_filter, List.mem_map] at hc
        obtain ⟨⟨⟨x, y⟩, hx, rfl⟩, -⟩ := hc
        have := (List.of_mem_zip hx).1
        simp only [List.mem_range'_1] at this
        simp only; omega
      · rw [List.filter_cons_of_pos (by simpa using hf)]
        simp [Memory.read]
    · have hlt : lo + 1 ≤ a := by omega
      have hidx : a - lo = (a - (lo + 1)) + 1 := by omega
      rw [hidx, List.getElem?_cons_succ]
      by_cases hf : f (lo, b) = unlistedByte
      · rw [List.filter_cons_of_neg (by simpa using hf)]
        exact ih (lo + 1) hlt
      · rw [List.filter_cons_of_pos (by simpa using hf)]
        simp only [Memory.read, hlo, if_false]
        exact ih (lo + 1) hlt

/-- R67: what a byte reads as after a write: the byte written, or what it was, outside the range and in a stuck cell. -/
theorem Memory.read_patch (m : Memory) (stuck : List Nat) (lo : Nat) (bytes : List Byte) (a : Nat) :
    (m.patch stuck lo bytes).read a
      = if lo ≤ a ∧ a < lo + bytes.length ∧ a ∉ stuck then bytes.getD (a - lo) unlistedByte else m.read a := by
  have hlow := Memory.read_filter m (fun x => decide (x < lo)) a
  have hhigh := Memory.read_filter m (fun x => decide (lo + bytes.length ≤ x)) a
  unfold Memory.patch
  rw [Memory.read_append, Memory.read_append]
  by_cases h1 : a < lo
  · have hmid : a ∉ List.map Prod.fst ((((List.range' lo bytes.length).zip bytes).map
        (fun c => (c.1, if c.1 ∈ stuck then m.read c.1 else c.2))).filter (fun c => decide (c.2 ≠ unlistedByte))) := by
      simp only [List.mem_map, List.mem_filter, not_exists, not_and]
      rintro c ⟨⟨⟨x, y⟩, hx, rfl⟩, -⟩
      have := (List.of_mem_zip hx).1
      simp only [List.mem_range'_1] at this
      simp only; omega
    have hif : ¬ (lo ≤ a ∧ a < lo + bytes.length ∧ a ∉ stuck) := by omega
    rw [if_neg hif]
    by_cases hm : a ∈ List.map Prod.fst (m.filter fun c => decide (c.1 < lo))
    · rw [if_pos (by rw [List.map_append]; exact List.mem_append_left _ hm), if_pos hm, hlow]
      simp [h1]
    · rw [if_neg (by rw [List.map_append]; exact fun h => (List.mem_append.mp h).elim hm hmid), hhigh]
      have : ¬ lo + bytes.length ≤ a := by omega
      simp only [this, decide_false]
      refine (Memory.read_of_not_mem fun c hc he => hm ?_).symm
      exact List.mem_map.mpr ⟨c, by simp [hc, he, h1], he⟩
  · have hm : a ∉ List.map Prod.fst (m.filter fun c => decide (c.1 < lo)) := by
      simp only [List.mem_map, List.mem_filter, decide_eq_true_eq, not_exists, not_and]
      rintro c ⟨-, hc⟩; omega
    have hread := Memory.read_cells (fun c => if c.1 ∈ stuck then m.read c.1 else c.2) bytes lo a (by omega)
    by_cases h2 : a < lo + bytes.length
    · have hidx : a - lo < bytes.length := by omega
      have hb : bytes[a - lo]? = some bytes[a - lo] := List.getElem?_eq_getElem hidx
      rw [hb] at hread
      simp only at hread
      have hgoal : (if lo ≤ a ∧ a < lo + bytes.length ∧ a ∉ stuck then bytes.getD (a - lo) unlistedByte else m.read a)
          = if a ∈ stuck then m.read a else bytes[a - lo] := by
        have hlo : lo ≤ a := by omega
        by_cases hs : a ∈ stuck
        · simp [hs]
        · simp [hs, h2, hlo, hidx]
      rw [hgoal, ← hread]
      rw [if_neg hm]
      split
      · rfl
      · rename_i hno
        rw [hhigh]
        have : ¬ lo + bytes.length ≤ a := by omega
        simp only [this, decide_false]
        refine (Memory.read_of_not_mem fun c hc he => hno ?_).symm
        rw [List.map_append]
        exact List.mem_append_right _ (List.mem_map.mpr ⟨c, hc, he⟩)
    · have hmid : a ∉ List.map Prod.fst ((((List.range' lo bytes.length).zip bytes).map
          (fun c => (c.1, if c.1 ∈ stuck then m.read c.1 else c.2))).filter (fun c => decide (c.2 ≠ unlistedByte))) := by
        simp only [List.mem_map, List.mem_filter, not_exists, not_and]
        rintro c ⟨⟨⟨x, y⟩, hx, rfl⟩, -⟩
        have := (List.of_mem_zip hx).1
        simp only [List.mem_range'_1] at this
        simp only; omega
      rw [if_neg (by rw [List.map_append]; exact fun h => (List.mem_append.mp h).elim hm hmid), hhigh]
      have h3 : lo + bytes.length ≤ a := by omega
      have hif : ¬ (lo ≤ a ∧ a < lo + bytes.length ∧ a ∉ stuck) := by omega
      simp [h3, hif]

/-- R66: what a byte reads as after an erase answered ok. -/
theorem Memory.read_eraseSectors (m : Memory) (c : Config) (stuck : List Nat) (s0 s1 a : Nat) :
    (m.eraseSectors c stuck s0 s1).read a
      = if inSectors c s0 s1 a ∧ a ∉ stuck then unlistedByte else m.read a := by
  have h := Memory.read_filter m (fun x => decide (x ∈ stuck) || !inSectors c s0 s1 x) a
  unfold Memory.eraseSectors
  rw [h]
  by_cases h1 : inSectors c s0 s1 a <;> by_cases h2 : a ∈ stuck <;> simp [h1, h2]

/-- Filtering keeps the canonical form. -/
theorem Memory.wf_filter {m : Memory} (p : Host.Cell → Bool) (h : m.wf) : Memory.wf (m.filter p) :=
  ⟨h.1.filter p, fun c hc => h.2 c (List.mem_filter.mp hc).1⟩

/-- An erase keeps the canonical form. -/
theorem Memory.wf_eraseSectors {m : Memory} (c : Config) (stuck : List Nat) (s0 s1 : Nat) (h : m.wf) :
    (m.eraseSectors c stuck s0 s1).wf :=
  Memory.wf_filter _ h

theorem Memory.cells_pairwise (f : Nat × Byte → Byte) (bytes : List Byte) (lo : Nat) :
    ((((List.range' lo bytes.length).zip bytes).map fun c => (c.1, f c)).filter
        (fun c => decide (c.2 ≠ unlistedByte))).Pairwise (fun c d => c.1 < d.1) := by
  refine List.Pairwise.filter _ ?_
  rw [List.pairwise_map]
  have hp : (List.range' lo bytes.length).Pairwise (· < ·) := List.pairwise_lt_range'
  have hz : (((List.range' lo bytes.length).zip bytes).map Prod.fst).Pairwise (· < ·) := by
    rw [List.map_fst_zip (by simp)]
    exact hp
  rw [List.pairwise_map] at hz
  exact hz.imp fun h => h

/-- A write keeps the canonical form. -/
theorem Memory.wf_patch {m : Memory} (stuck : List Nat) (lo : Nat) (bytes : List Byte) (h : m.wf) :
    (m.patch stuck lo bytes).wf := by
  have hmem : ∀ c ∈ (((List.range' lo bytes.length).zip bytes).map
      (fun c => (c.1, if c.1 ∈ stuck then m.read c.1 else c.2))).filter (fun c => decide (c.2 ≠ unlistedByte)),
      lo ≤ c.1 ∧ c.1 < lo + bytes.length := by
    intro c hc
    simp only [List.mem_filter, List.mem_map] at hc
    obtain ⟨⟨⟨x, y⟩, hx, rfl⟩, -⟩ := hc
    simpa [List.mem_range'_1] using (List.of_mem_zip hx).1
  unfold Memory.patch
  refine ⟨?_, ?_⟩
  · rw [List.pairwise_append, List.pairwise_append]
    refine ⟨⟨h.1.filter _, ?_, ?_⟩, h.1.filter _, ?_⟩
    · exact Memory.cells_pairwise (fun c => if c.1 ∈ stuck then m.read c.1 else c.2) bytes lo
    · intro c hc d hd
      have h1 : c.1 < lo := by simpa using (List.mem_filter.mp hc).2
      have := hmem d hd
      omega
    · intro c hc d hd
      have h2 : lo + bytes.length ≤ d.1 := by simpa using (List.mem_filter.mp hd).2
      rcases List.mem_append.mp hc with hc | hc
      · have : c.1 < lo := by simpa using (List.mem_filter.mp hc).2
        omega
      · have := hmem c hc
        omega
  · intro c hc
    rcases List.mem_append.mp hc with hc | hc
    · rcases List.mem_append.mp hc with hc | hc
      · exact h.2 c (List.mem_filter.mp hc).1
      · simpa using (List.mem_filter.mp hc).2
    · exact h.2 c (List.mem_filter.mp hc).1

/-- Flash at reset is in canonical form. -/
theorem State.reset_flash_wf : State.reset.flash.wf :=
  ⟨List.Pairwise.nil, fun _ h => absurd h (List.not_mem_nil)⟩

@[simp] theorem Memory.readRange_length (m : Memory) (lo n : Nat) : (m.readRange lo n).length = n := by
  simp [Memory.readRange]

theorem Memory.readRange_getElem? (m : Memory) (lo n i : Nat) (h : i < n) :
    (m.readRange lo n)[i]? = some (m.read (lo + i)) := by
  simp [Memory.readRange, h]

/-- Two memories that agree on a range give the same bytes of it. -/
theorem Memory.readRange_congr {m m' : Memory} {lo n : Nat} (h : ∀ a, lo ≤ a → a < lo + n → m.read a = m'.read a) :
    m.readRange lo n = m'.readRange lo n := by
  refine List.map_congr_left fun a ha => ?_
  have := List.mem_range'_1.mp ha
  exact h a this.1 this.2

/-- R67, R79: a range just written reads back as written, where no cell is stuck. -/
theorem Memory.readRange_patch (m : Memory) (lo : Nat) (bytes : List Byte) :
    (m.patch [] lo bytes).readRange lo bytes.length = bytes := by
  refine List.ext_getElem? fun i => ?_
  by_cases h : i < bytes.length
  · rw [Memory.readRange_getElem? _ _ _ _ h, Memory.read_patch]
    simp [h]
  · rw [List.getElem?_eq_none (by simpa using h), List.getElem?_eq_none (by simpa using h)]

end Sys2Proof.Machine
end

