-- ==== Sys2Proof/Laws/Operands.lean ====
section
/-!
SUPPORT. The halves of the 16-bit values (spec/20_memory.md R62, R71, spec/30_encoding.md R95), and the offset of an aligned
access of the register window (spec/10_state.md R35, R36).
-/

namespace Sys2Proof.Machine

theorem append_low (hi lo : BitVec 8) : (hi ++ lo).extractLsb' 0 8 = lo := by
  apply BitVec.eq_of_getLsbD_eq
  intro i hi
  simp only [BitVec.getLsbD_append, BitVec.getLsbD_extractLsb']
  simp [hi]

theorem append_high (hi lo : BitVec 8) : (hi ++ lo).extractLsb' 8 8 = hi := by
  apply BitVec.eq_of_getLsbD_eq
  intro i hi
  simp only [BitVec.getLsbD_append, BitVec.getLsbD_extractLsb']
  simp [hi]

theorem append_halves (v : BitVec 16) : v.extractLsb' 8 8 ++ v.extractLsb' 0 8 = v := by
  apply BitVec.eq_of_getLsbD_eq
  intro i hi
  simp only [BitVec.getLsbD_append, BitVec.getLsbD_extractLsb']
  by_cases h : i < 8
  · simp [h]
  · have h8 : i - 8 < 8 := by omega
    have h9 : 8 + (i - 8) = i := by omega
    simp [h, h8, h9]

@[simp] theorem loByte_trailerValue (lo hi : Byte) : loByte (trailerValue lo hi) = lo := append_low hi lo
@[simp] theorem hiByte_trailerValue (lo hi : Byte) : hiByte (trailerValue lo hi) = hi := append_high hi lo

/-- R62, R71: a value is that of its two bytes. -/
@[simp] theorem trailerValue_bytes (v : Half) : trailerValue (loByte v) (hiByte v) = v := append_halves v

@[simp] theorem hiByte_withCrcHi (v : Half) (b : Byte) : hiByte (withCrcHi v b) = b := append_high b (loByte v)
@[simp] theorem loByte_withCrcHi (v : Half) (b : Byte) : loByte (withCrcHi v b) = loByte v := append_low b (loByte v)
@[simp] theorem hiByte_withCrcLo (v : Half) (b : Byte) : hiByte (withCrcLo v b) = hiByte v := append_high (hiByte v) b
@[simp] theorem loByte_withCrcLo (v : Half) (b : Byte) : loByte (withCrcLo v b) = b := append_low (hiByte v) b

/-- R35, R36: an aligned 32-bit access of the window is taken at its offset. -/
theorem windowOffset_aligned (c : Config) {off : Nat} (h : off < 64) (h4 : off % 4 = 0) :
    windowOffset c (c.regBase + off) 4 = some off := by
  unfold windowOffset
  rw [Nat.add_sub_cancel_left, if_pos ⟨rfl, by omega, by omega, h4⟩]

/-- R36: any other access is taken nowhere. -/
theorem windowOffset_none {c : Config} {addr width : Nat}
    (h : width ≠ 4 ∨ addr < c.regBase ∨ c.regBase + 64 ≤ addr ∨ (addr - c.regBase) % 4 ≠ 0) :
    windowOffset c addr width = none := by
  unfold windowOffset
  rw [if_neg]
  omega

end Sys2Proof.Machine
end

