-- ==== Sys2Proof/Laws/Params.lean ====
section
/-!
SUPPORT. What an admitted configuration says of every address: the constraints of spec/00_scope.md R11, which Machine/Params.lean
checks piece by piece, in the words the spec states them in.
-/

namespace Sys2Proof.Machine

/-- The constraints of R11 one by one. -/
theorem admitted_iff (c : Config) :
    admitted c = true ↔
      (c.writePage = 128 ∨ c.writePage = 256 ∨ c.writePage = 512 ∨ c.writePage = 1024)
      ∧ c.imgStart % c.writePage = 0
      ∧ (c.imgEnd - c.imgStart) % c.writePage = 0
      ∧ c.imgStart < c.imgEnd ∧ c.imgEnd ≤ Config.addrSpace
      ∧ 4 ≤ c.trailerUnit ∧ c.trailerUnit ≤ c.imgEnd - c.imgStart
      ∧ piecesAreExactly c (trailerSector c) (trailerSector c) (trailerBase c) c.imgEnd = true
      ∧ piecesAreExactly c (sectorFirst c) (sectorLast c) c.imgStart c.imgEnd = true
      ∧ (regionPieces c).Pairwise (fun p q => p.number ≤ q.number)
      ∧ tiles 0 c.sectors = true := by
  simp only [admitted, Bool.and_eq_true, decide_eq_true_eq, List.contains_eq_mem, List.mem_cons, List.not_mem_nil,
    or_false]
  tauto

/-- A tiling map holds every address from its start to the end of the space in a piece of its own. -/
theorem tiles_find {at' : Nat} {ps : List Sector} (h : tiles at' ps = true) {a : Nat} (h1 : at' ≤ a)
    (h2 : a < Config.addrSpace) :
    ∃ p ∈ ps, p.base ≤ a ∧ a < p.base + p.size
      ∧ ps.find? (fun p => p.base ≤ a && a < p.base + p.size) = some p := by
  induction ps generalizing at' with
  | nil =>
    simp only [tiles, beq_iff_eq] at h
    omega
  | cons p ps ih =>
    simp only [tiles, Bool.and_eq_true, beq_iff_eq, decide_eq_true_eq] at h
    obtain ⟨⟨hb, hs⟩, ht⟩ := h
    by_cases ha : a < p.base + p.size
    · refine ⟨p, by simp, by omega, ha, ?_⟩
      rw [List.find?_cons_of_pos]
      simp only [Bool.and_eq_true, decide_eq_true_eq]
      omega
    · obtain ⟨q, hq, h3, h4, h5⟩ := ih ht (by omega)
      refine ⟨q, by simp [hq], h3, h4, ?_⟩
      rw [List.find?_cons_of_neg, h5]
      simp only [Bool.and_eq_true, decide_eq_true_eq]
      omega

/-- Every address of the space lies in the piece that gives it its number. -/
theorem sectorOf_piece {c : Config} (ht : tiles 0 c.sectors = true) {a : Nat} (ha : a < Config.addrSpace) :
    ∃ p ∈ c.sectors, p.base ≤ a ∧ a < p.base + p.size ∧ sectorOf c a = p.number := by
  obtain ⟨p, hp, h1, h2, h3⟩ := tiles_find ht (Nat.zero_le a) ha
  refine ⟨p, hp, h1, h2, ?_⟩
  unfold sectorOf
  rw [h3]

/-- Where the pieces of some sectors are exactly a range, an address lies in those sectors exactly when it
lies in the range. -/
theorem inSectors_iff {c : Config} {s0 s1 lo hi a : Nat} (ht : tiles 0 c.sectors = true)
    (hp : piecesAreExactly c s0 s1 lo hi = true) (ha : a < Config.addrSpace) :
    inSectors c s0 s1 a = true ↔ lo ≤ a ∧ a < hi := by
  obtain ⟨p, hmem, h1, h2, h3⟩ := sectorOf_piece ht ha
  have := List.all_eq_true.mp hp p hmem
  unfold inSectors
  rw [h3]
  split at this <;> simp only [Bool.and_eq_true, Bool.or_eq_true, decide_eq_true_eq] at this ⊢ <;> omega

/-- R11 constraint 7: the sectors `SECTOR_FIRST .. SECTOR_LAST` hold exactly the image region. -/
theorem inSectors_region {c : Config} (h : admitted c = true) {a : Nat} (ha : a < Config.addrSpace) :
    inSectors c (sectorFirst c) (sectorLast c) a = true ↔ c.imgStart ≤ a ∧ a < c.imgEnd := by
  obtain ⟨-, -, -, -, -, -, -, -, hp, -, ht⟩ := (admitted_iff c).mp h
  exact inSectors_iff ht hp ha

/-- R11 constraint 6: the sector `TRAILER_SECTOR` holds exactly the trailer's erase unit. -/
theorem inSectors_trailer {c : Config} (h : admitted c = true) {a : Nat} (ha : a < Config.addrSpace) :
    inSectors c (trailerSector c) (trailerSector c) a = true ↔ trailerBase c ≤ a ∧ a < c.imgEnd := by
  obtain ⟨-, -, -, -, -, -, -, hp, -, -, ht⟩ := (admitted_iff c).mp h
  exact inSectors_iff ht hp ha

/-- A piece of the sectors `s0 .. s1` lies in the range their pieces are exactly. -/
theorem piece_within {c : Config} {s0 s1 lo hi : Nat} (hp : piecesAreExactly c s0 s1 lo hi = true) {p : Sector}
    (hmem : p ∈ c.sectors) (h0 : s0 ≤ p.number) (h1 : p.number ≤ s1) : lo ≤ p.base ∧ p.base + p.size ≤ hi := by
  have := List.all_eq_true.mp hp p hmem
  rw [if_pos ⟨h0, h1⟩] at this
  simpa using this

/-- The write page divides both payload lengths' clamps (R74, R182). -/
theorem writePage_pos {c : Config} (h : admitted c = true) : 128 ≤ c.writePage ∧ c.writePage ≤ 1024 := by
  obtain ⟨hw, -⟩ := (admitted_iff c).mp h
  omega

/-- R182: the clamped length is a positive multiple of the write page, of at most 1024 bytes. -/
theorem clampLen_spec {c : Config} (h : admitted c = true) (z : SizeClass) :
    clampLen c (pktLen z) % c.writePage = 0 ∧ 0 < clampLen c (pktLen z) ∧ clampLen c (pktLen z) ≤ 1024 := by
  obtain ⟨hw, -⟩ := (admitted_iff c).mp h
  rcases hw with hw | hw | hw | hw <;> cases z <;> simp [clampLen, pktLen, hw]

/-- The image region holds at least one write page, and its end is a multiple of it. -/
theorem imgEnd_mod {c : Config} (h : admitted c = true) : c.imgEnd % c.writePage = 0 ∧ c.imgStart + 128 ≤ c.imgEnd := by
  obtain ⟨hw, h1, h2, h3, -⟩ := (admitted_iff c).mp h
  rcases hw with hw | hw | hw | hw <;> rw [hw] at h1 h2 ⊢ <;> omega

/-- The pieces of a tiling map lie in the space, have a byte each, and start where the map starts or later. -/
theorem tiles_bounds {at' : Nat} {ps : List Sector} (h : tiles at' ps = true) {p : Sector} (hp : p ∈ ps) :
    at' ≤ p.base ∧ 0 < p.size ∧ p.base + p.size ≤ Config.addrSpace := by
  induction ps generalizing at' p with
  | nil => simp at hp
  | cons q ps ih =>
    simp only [tiles, Bool.and_eq_true, beq_iff_eq, decide_eq_true_eq] at h
    obtain ⟨⟨hb, hs⟩, ht⟩ := h
    rcases List.mem_cons.mp hp with rfl | hp
    · refine ⟨by omega, hs, ?_⟩
      cases ps with
      | nil => simp only [tiles, beq_iff_eq] at ht; omega
      | cons r ps =>
        have := ih ht (p := r) (by simp) |>.2.2
        simp only [tiles, Bool.and_eq_true, beq_iff_eq, decide_eq_true_eq] at ht
        omega
    · have := ih ht hp
      omega

/-- In a tiling map a piece's bytes are found in that piece. -/
theorem tiles_find_mem {at' : Nat} {ps : List Sector} (h : tiles at' ps = true) {p : Sector} (hp : p ∈ ps) {a : Nat}
    (h1 : p.base ≤ a) (h2 : a < p.base + p.size) :
    ps.find? (fun p => p.base ≤ a && a < p.base + p.size) = some p := by
  induction ps generalizing at' with
  | nil => simp at hp
  | cons q ps ih =>
    simp only [tiles, Bool.and_eq_true, beq_iff_eq, decide_eq_true_eq] at h
    obtain ⟨⟨hb, hs⟩, ht⟩ := h
    rcases List.mem_cons.mp hp with rfl | hp
    · rw [List.find?_cons_of_pos]
      simp [h1, h2]
    · have := tiles_bounds ht hp
      rw [List.find?_cons_of_neg, ih ht hp]
      simp only [Bool.and_eq_true, decide_eq_true_eq]
      omega

/-- R10: each byte of a piece has the piece's number. -/
theorem sectorOf_of_mem {c : Config} (ht : tiles 0 c.sectors = true) {p : Sector} (hp : p ∈ c.sectors) {a : Nat}
    (h1 : p.base ≤ a) (h2 : a < p.base + p.size) : sectorOf c a = p.number := by
  unfold sectorOf
  rw [tiles_find_mem ht hp h1 h2]

/-- R11: `SECTOR_FIRST` is at most `SECTOR_LAST`, which is `TRAILER_SECTOR`. -/
theorem sectorFirst_le {c : Config} (h : admitted c = true) :
    sectorFirst c ≤ sectorLast c ∧ trailerSector c = sectorLast c := by
  refine ⟨?_, rfl⟩
  obtain ⟨-, -, -, hlt, he, -⟩ := (admitted_iff c).mp h
  have := (inSectors_region h (a := c.imgStart) (by omega)).mpr ⟨Nat.le_refl _, hlt⟩
  unfold inSectors at this
  simp only [Bool.and_eq_true, decide_eq_true_eq] at this
  omega

end Sys2Proof.Machine
end

