-- ==== Sys2Proof/Laws/Ops.lean ====
section
/-!
SUPPORT. What each request and each programmer operation can do, said once (<operation>_next): the answer, the state it
leaves as an update of the state before, and what holds of the flash in it. A proof about a request or an
operation cites these. Rules: spec/20_memory.md R65 to R68, spec/42_flash_programmer.md R180, R181, R185.
-/

namespace Sys2Proof.Machine

/-! ### Draws -/

theorem drawPrepare_next (s : State) : ∃ d, (drawPrepare s).2 = { s with draws := d } := by
  unfold drawPrepare; split <;> exact ⟨_, rfl⟩

theorem drawErase_next (s : State) : ∃ d, (drawErase s).2 = { s with draws := d } := by
  unfold drawErase; split <;> exact ⟨_, rfl⟩

theorem drawWrite_next (s : State) : ∃ d, (drawWrite s).2 = { s with draws := d } := by
  unfold drawWrite; split <;> exact ⟨_, rfl⟩

theorem drawRx_next (s : State) : ∃ d, (drawRx s).2 = { s with draws := d } := by
  unfold drawRx; split <;> exact ⟨_, rfl⟩

theorem drawTimer_next (s : State) : ∃ d, (drawTimer s).2 = { s with draws := d } := by
  unfold drawTimer; split <;> exact ⟨_, rfl⟩

theorem drawBytes_next (n : Nat) (s : State) : ∃ d, (drawBytes n s).2 = { s with draws := d } := ⟨_, rfl⟩

/-- A draw of `n` bytes answers `n` bytes. -/
@[simp] theorem drawBytes_length (n : Nat) (s : State) : (drawBytes n s).1.length = n := by
  simp [drawBytes]

/-- R15: any bytes can be drawn. -/
theorem drawBytes_given (bytes rest : List Byte) (s : State) (h : s.draws.bytes = bytes ++ rest) :
    (drawBytes bytes.length s).1 = bytes := by
  simp [drawBytes, h]

/-! ### Requests -/

/-- R65. -/
theorem flashPrepare_next (s0 s1 : Nat) (s : State) :
    ∃ d, flashPrepare s0 s1 s = ((drawPrepare s).1,
      { s with draws := d, history := s.history ++ [.flashPrepare s0 s1 (drawPrepare s).1] }) := by
  obtain ⟨d, hd⟩ := drawPrepare_next s
  exact ⟨d, by rw [flashPrepare_eq, hd]; rfl⟩

/-- R68. -/
theorem flashCompare_next (addr : Nat) (buf : Buf) (n : Nat) (s : State) :
    flashCompare addr buf n s = (decide (s.flash.readRange addr n = (bufBytes buf s).take n),
      { s with history := s.history ++
          [.flashCompare addr buf n (decide (s.flash.readRange addr n = (bufBytes buf s).take n))] }) := rfl

/-- R67: the flash after a write is the flash before with the `n` bytes replaced, by the buffer's on ok. -/
theorem flashWrite_next (addr : Nat) (buf : Buf) (n : Nat) (s : State) (hn : n ≤ (bufBytes buf s).length) :
    ∃ bytes d, flashWrite addr buf n s = ((drawWrite s).1,
        { s with flash := s.flash.patch s.stuck addr bytes, draws := d,
                 history := s.history ++ [.flashWrite addr buf n (drawWrite s).1] })
      ∧ bytes.length = n ∧ ((drawWrite s).1 = .ok → bytes = (bufBytes buf s).take n) := by
  obtain ⟨d, hd⟩ := drawWrite_next s
  rw [flashWrite_eq]
  cases h : (drawWrite s).1
  · exact ⟨(bufBytes buf s).take n, d, by rw [hd]; rfl, by simpa using hn, fun _ => rfl⟩
  · obtain ⟨d', hd'⟩ := drawBytes_next n (drawWrite s).2
    exact ⟨(drawBytes n (drawWrite s).2).1, d', by rw [hd', hd]; rfl, by simp, by simp⟩

/-- R66, on fail: only bytes of the pieces change, and the canonical form is kept. -/
theorem foldl_scramblePiece_next (ps : List Sector) (s : State) :
    ∃ m d, ps.foldl scramblePiece s = { s with flash := m, draws := d }
      ∧ (s.flash.wf → m.wf)
      ∧ ∀ a, (∀ p ∈ ps, ¬ (p.base ≤ a ∧ a < p.base + p.size)) → m.read a = s.flash.read a := by
  induction ps generalizing s with
  | nil => exact ⟨s.flash, s.draws, rfl, id, fun _ _ => rfl⟩
  | cons p ps ih =>
    obtain ⟨m, d, h1, h2, h3⟩ := ih (scramblePiece s p)
    obtain ⟨d', hd'⟩ := drawBytes_next p.size s
    refine ⟨m, d, ?_, fun hw => h2 ?_, fun a ha => ?_⟩
    · rw [List.foldl_cons, h1, scramblePiece_eq, hd']
    · rw [scramblePiece_eq]
      exact Memory.wf_patch _ _ _ hw
    · rw [h3 a fun q hq => ha q (by simp [hq]), scramblePiece_eq]
      have := ha p (by simp)
      rw [Memory.read_patch, if_neg]
      rw [drawBytes_length]
      tauto

/-- R66: an erase changes no byte outside the pieces of its sectors; on ok the flash is the erased one. -/
theorem flashErase_next (s0 s1 : Nat) (s : State) :
    ∃ m d, flashErase s0 s1 s = ((drawErase s).1,
        { s with flash := m, draws := d, history := s.history ++ [.flashErase s0 s1 (drawErase s).1] })
      ∧ (s.flash.wf → m.wf)
      ∧ ((drawErase s).1 = .ok → m = s.flash.eraseSectors s.cfg s.stuck s0 s1)
      ∧ ((drawErase s).1 = .fail → ∀ a,
          (∀ p ∈ s.cfg.sectors, s0 ≤ p.number → p.number ≤ s1 → ¬ (p.base ≤ a ∧ a < p.base + p.size)) →
          m.read a = s.flash.read a) := by
  obtain ⟨d, hd⟩ := drawErase_next s
  rw [flashErase_eq]
  cases h : (drawErase s).1
  · exact ⟨_, d, by rw [hd]; rfl, Memory.wf_eraseSectors _ _ _ _, fun _ => rfl, by simp⟩
  · obtain ⟨m, d', h1, h2, h3⟩ := foldl_scramblePiece_next
      ((drawErase s).2.cfg.sectors.filter fun p => decide (s0 ≤ p.number) && decide (p.number ≤ s1)) (drawErase s).2
    refine ⟨m, d', ?_, ?_, by simp, fun _ a ha => ?_⟩
    · unfold scrambleSectors
      rw [h1, hd]
      rfl
    · simpa using h2
    · rw [h3 a]
      · simp
      · intro p hp
        simp only [drawErase_fields, List.mem_filter, Bool.and_eq_true, decide_eq_true_eq] at hp
        exact ha p hp.1 hp.2.1 hp.2.2

/-- R69, R66: whatever it answers, an erase whose pieces are exactly `[lo, hi)` leaves every other byte. -/
theorem flashErase_outside {s0 s1 lo hi : Nat} {s : State} (ht : tiles 0 s.cfg.sectors = true)
    (hp : piecesAreExactly s.cfg s0 s1 lo hi = true) {a : Nat} (ha : a < Config.addrSpace)
    (hout : a < lo ∨ hi ≤ a) : (flashErase s0 s1 s).2.flash.read a = s.flash.read a := by
  obtain ⟨m, d, h1, -, h2, h3⟩ := flashErase_next s0 s1 s
  rw [h1]
  cases h : (drawErase s).1
  · rw [h2 h]
    have := inSectors_iff ht hp ha
    rw [Memory.read_eraseSectors, if_neg]
    rintro ⟨hin, -⟩
    have := this.mp hin
    omega
  · refine h3 h a fun p hmem h0 h1 hin => ?_
    have := piece_within hp hmem h0 h1
    omega

/-- R66: an erase answered ok leaves 0xFF in `[lo, hi)`, the bytes of its sectors, where no cell is stuck. -/
theorem flashErase_inside {s0 s1 lo hi : Nat} {s : State} (ht : tiles 0 s.cfg.sectors = true)
    (hp : piecesAreExactly s.cfg s0 s1 lo hi = true) (hs : s.stuck = []) (hok : (drawErase s).1 = .ok)
    {a : Nat} (ha : a < Config.addrSpace) (hin : lo ≤ a ∧ a < hi) :
    (flashErase s0 s1 s).2.flash.read a = 0xFF := by
  obtain ⟨m, d, h1, -, h2, -⟩ := flashErase_next s0 s1 s
  rw [h1]
  simp only
  rw [h2 hok, Memory.read_eraseSectors, if_pos ⟨(inSectors_iff ht hp ha).mpr hin, by simp [hs]⟩]
  rfl

/-! ### Programmer operations -/

/-- An operation that answers ok had its request answered ok, and went on. -/
theorem andThen_ok_inv {r : Answer × State} {k : State → Answer × State} (h : (andThen r k).1 = .ok) :
    r.1 = .ok ∧ andThen r k = k r.2 := by
  cases hr : r.1
  · exact ⟨rfl, andThen_ok hr⟩
  · rw [andThen_fail hr] at h
    simp [failed] at h

/-- R180: SESSION_ERASE writes `OK`, `ERASED`, flash, the draws and the history, and makes these requests. -/
theorem sessionErase_next (s : State) :
    ∃ a m d es, sessionErase s = (a, { s with ok := decide (a = .ok), erased := s.erased || decide (a = .ok),
                                              flash := m, draws := d, history := s.history ++ es })
      ∧ (s.flash.wf → m.wf)
      ∧ (∀ e ∈ es, ∃ b, e = .flashPrepare (sectorFirst s.cfg) (sectorLast s.cfg) b
          ∨ e = .flashErase (sectorFirst s.cfg) (sectorLast s.cfg) b)
      ∧ (admitted s.cfg = true → ∀ x, x < Config.addrSpace → x < s.cfg.imgStart ∨ s.cfg.imgEnd ≤ x →
          m.read x = s.flash.read x) := by
  obtain ⟨d, hp⟩ := flashPrepare_next (sectorFirst s.cfg) (sectorLast s.cfg) s
  unfold sessionErase
  cases h : (flashPrepare (sectorFirst s.cfg) (sectorLast s.cfg) s).1
  · obtain ⟨m, d', he, hw, -, -⟩ :=
      flashErase_next (sectorFirst s.cfg) (sectorLast s.cfg) (flashPrepare (sectorFirst s.cfg) (sectorLast s.cfg) s).2
    have hfl : (flashPrepare (sectorFirst s.cfg) (sectorLast s.cfg) s).2.flash = s.flash := by simp
    have hout : admitted s.cfg = true → ∀ x, x < Config.addrSpace → x < s.cfg.imgStart ∨ s.cfg.imgEnd ≤ x →
        m.read x = s.flash.read x := by
      intro ha x hx hr
      obtain ⟨-, -, -, -, -, -, -, -, hpe, -, ht⟩ := (admitted_iff s.cfg).mp ha
      have := flashErase_outside (s := (flashPrepare (sectorFirst s.cfg) (sectorLast s.cfg) s).2)
        (by simpa using ht) (by simpa using hpe) hx hr
      rwa [he, hfl] at this
    rw [andThen_ok h]
    simp only [hp] at he hw hfl ⊢
    rw [he]
    generalize (drawErase _).1 = b
    cases b
    · rw [andThen_ok rfl]
      refine ⟨.ok, m, d', [.flashPrepare (sectorFirst s.cfg) (sectorLast s.cfg) (drawPrepare s).1,
        .flashErase (sectorFirst s.cfg) (sectorLast s.cfg) .ok], ?_, hw, ?_, hout⟩
      · simp [setOk]
      · simp
    · rw [andThen_fail rfl]
      refine ⟨.fail, m, d', [.flashPrepare (sectorFirst s.cfg) (sectorLast s.cfg) (drawPrepare s).1,
        .flashErase (sectorFirst s.cfg) (sectorLast s.cfg) .fail], ?_, hw, ?_, hout⟩
      · simp [failed, setOk]
      · simp
  · rw [andThen_fail h, hp]
    exact ⟨.fail, s.flash, d, [.flashPrepare (sectorFirst s.cfg) (sectorLast s.cfg) (drawPrepare s).1], by simp [failed, setOk], id,
      by simp, fun _ _ _ _ => rfl⟩

/-- R181: the compare of a write is one request, answered ok on a match. -/
theorem verify_next (len : Nat) (s : State) :
    ∃ c, verify len s = (if c then .ok else .fail,
      { s with history := s.history ++ [.flashCompare s.cursor.toNat .pktbuf len c] }) :=
  ⟨_, rfl⟩

/-- R181, R184: where `CURSOR` can be after an advance: past the written bytes where the sum fits its 32 bits, and in any
case on a write page, no further than the written bytes, and not behind where it was. -/
def Advanced (c : Config) (len : Nat) (old new : Word) : Prop :=
  (old.toNat + len < Config.addrSpace → new = BitVec.ofNat 32 (old.toNat + len))
  ∧ (0 < c.writePage → c.writePage ≤ len → old.toNat + len ≤ Config.addrSpace →
      old.toNat ≤ new.toNat ∧ new.toNat ≤ old.toNat + len
      ∧ (old.toNat % c.writePage = 0 → len % c.writePage = 0 → new.toNat % c.writePage = 0))

/-- R184: a place within the limits is in the 32-bit space, at or past where `CURSOR` was. -/
theorem cursorPlace_range {c : Config} {old k : Nat} (hp : 0 < c.writePage) (hr : old + c.writePage ≤ Config.addrSpace) :
    old ≤ cursorPlace c old k ∧ cursorPlace c old k < Config.addrSpace := by
  have hq : 0 < (Config.addrSpace - old) / c.writePage := Nat.div_pos (by omega) hp
  have hk : k % ((Config.addrSpace - old) / c.writePage) + 1 ≤ (Config.addrSpace - old) / c.writePage := Nat.mod_lt _ hq
  have hm := Nat.le_trans (Nat.mul_le_mul_right c.writePage hk) (Nat.div_mul_le_self _ _)
  rw [Nat.add_mul] at hm
  unfold cursorPlace
  omega

/-- R181: an advance writes `CURSOR`, within its limits, and the draws. -/
theorem advanceCursor_next (len : Nat) (s : State) :
    ∃ cur d, advanceCursor len s = { s with cursor := cur, draws := d } ∧ Advanced s.cfg len s.cursor cur := by
  unfold advanceCursor
  split
  case isTrue hc =>
    refine ⟨_, _, rfl, fun _ => rfl, fun _ _ _ => ?_⟩
    have ht : (BitVec.ofNat 32 (s.cursor.toNat + len)).toNat = s.cursor.toNat + len := by
      rw [BitVec.toNat_ofNat]; exact Nat.mod_eq_of_lt hc
    rw [ht]
    exact ⟨by omega, by omega, fun h1 h2 => by simp [Nat.add_mod, h1, h2]⟩
  case isFalse hc =>
    refine ⟨_, _, rfl, fun h => absurd h hc, fun hp hl hs => ?_⟩
    obtain ⟨h1, h2⟩ := cursorPlace_range (k := Config.freeCursor s.draws.count) hp (old := s.cursor.toNat) (by omega)
    have ht : (BitVec.ofNat 32 (cursorPlace s.cfg s.cursor.toNat (Config.freeCursor s.draws.count))).toNat
        = cursorPlace s.cfg s.cursor.toNat (Config.freeCursor s.draws.count) := by
      rw [BitVec.toNat_ofNat]; exact Nat.mod_eq_of_lt h2
    rw [ht]
    exact ⟨h1, by omega, fun h _ => by simp [cursorPlace, h]⟩

/-- R181, from the prepare on: a write of the cursor's range, verified, and the advance. -/
theorem writeVerified_next (len : Nat) (s : State) (hlen : len ≤ 1024) :
    ∃ a m d es, writeVerified len s = (a, { s with ok := decide (a = .ok), flash := m, draws := d,
                                                    cursor := (writeVerified len s).2.cursor,
                                                    history := s.history ++ es })
      ∧ (s.flash.wf → m.wf)
      ∧ (∀ x, x < s.cursor.toNat ∨ s.cursor.toNat + len ≤ x → m.read x = s.flash.read x)
      ∧ (∀ e ∈ es, (∃ b, e = .flashPrepare (sectorFirst s.cfg) (sectorLast s.cfg) b)
          ∨ (∃ b, e = .flashWrite s.cursor.toNat .pktbuf len b) ∨ ∃ b, e = .flashCompare s.cursor.toNat .pktbuf len b)
      ∧ (a = .fail → (writeVerified len s).2.cursor = s.cursor)
      ∧ (a = .ok → .flashCompare s.cursor.toNat .pktbuf len true ∈ es
          ∧ Advanced s.cfg len s.cursor (writeVerified len s).2.cursor) := by
  obtain ⟨d, hp⟩ := flashPrepare_next (sectorFirst s.cfg) (sectorLast s.cfg) s
  unfold writeVerified
  cases h : (flashPrepare (sectorFirst s.cfg) (sectorLast s.cfg) s).1
  · obtain ⟨bytes, d', hw, hl, -⟩ := flashWrite_next s.cursor.toNat .pktbuf len
      (flashPrepare (sectorFirst s.cfg) (sectorLast s.cfg) s).2 (by simpa [bufBytes] using hlen)
    rw [hp] at hw
    simp only at hw
    rw [andThen_ok h, hp]
    simp only
    rw [hw]
    have hwf : s.flash.wf → (s.flash.patch s.stuck s.cursor.toNat bytes).wf := Memory.wf_patch _ _ _
    have hread : ∀ x, x < s.cursor.toNat ∨ s.cursor.toNat + len ≤ x →
        (s.flash.patch s.stuck s.cursor.toNat bytes).read x = s.flash.read x := by
      intro x hx
      rw [Memory.read_patch, if_neg]
      omega
    generalize (drawWrite _).1 = b
    cases b
    · rw [andThen_ok rfl]
      simp only
      obtain ⟨c, hc⟩ := verify_next len { s with
        flash := s.flash.patch s.stuck s.cursor.toNat bytes, draws := d',
        history := s.history ++ [.flashPrepare (sectorFirst s.cfg) (sectorLast s.cfg) (drawPrepare s).1]
          ++ [.flashWrite s.cursor.toNat .pktbuf len .ok] }
      rw [hc]
      cases c
      · rw [andThen_fail (by rfl)]
        refine ⟨.fail, _, d', [.flashPrepare (sectorFirst s.cfg) (sectorLast s.cfg) (drawPrepare s).1,
          .flashWrite s.cursor.toNat .pktbuf len .ok,
          .flashCompare s.cursor.toNat .pktbuf len false], ?_, hwf, hread, ?_, fun _ => rfl, by simp⟩
        · simp [failed, setOk]
        · simp
      · rw [andThen_ok (by rfl)]
        obtain ⟨cur, d'', hadv, hcur⟩ := advanceCursor_next len { s with
          flash := s.flash.patch s.stuck s.cursor.toNat bytes, draws := d',
          history := s.history ++ [.flashPrepare (sectorFirst s.cfg) (sectorLast s.cfg) (drawPrepare s).1]
            ++ [.flashWrite s.cursor.toNat .pktbuf len .ok] ++ [.flashCompare s.cursor.toNat .pktbuf len true] }
        rw [hadv]
        refine ⟨.ok, _, d'', [.flashPrepare (sectorFirst s.cfg) (sectorLast s.cfg) (drawPrepare s).1,
          .flashWrite s.cursor.toNat .pktbuf len .ok,
          .flashCompare s.cursor.toNat .pktbuf len true], ?_, hwf, hread, ?_, by simp, fun _ => ⟨?_, hcur⟩⟩
        · simp [setOk]
        · simp
        · simp
    · rw [andThen_fail rfl]
      refine ⟨.fail, _, d', [.flashPrepare (sectorFirst s.cfg) (sectorLast s.cfg) (drawPrepare s).1,
          .flashWrite s.cursor.toNat .pktbuf len .fail], ?_, hwf, hread, ?_, fun _ => rfl, by simp⟩
      · simp [failed, setOk]
      · simp
  · rw [andThen_fail h, hp]
    refine ⟨.fail, s.flash, d, [.flashPrepare (sectorFirst s.cfg) (sectorLast s.cfg) (drawPrepare s).1], ?_, id, fun _ _ => rfl, ?_,
      fun _ => rfl, by simp⟩
    · simp [failed, setOk]
    · simp

/-- R181: PROGRAM writes `OK`, `ERASED`, `CURSOR`, flash, the draws and the history, and makes these requests. -/
theorem program_next (n : Nat) (s : State) (hlen : clampLen s.cfg n ≤ 1024) :
    ∃ a er cur m d es, program n s = (a, { s with ok := decide (a = .ok), erased := er, cursor := cur, flash := m,
                                                  draws := d, history := s.history ++ es })
      ∧ (s.flash.wf → m.wf)
      ∧ (s.erased = true → er = true ∧
          ∀ x, x < s.cursor.toNat ∨ s.cursor.toNat + clampLen s.cfg n ≤ x → m.read x = s.flash.read x)
      ∧ (admitted s.cfg = true → s.cfg.imgStart ≤ s.cursor.toNat → ∀ x, x < Config.addrSpace →
          x < s.cfg.imgStart ∨ s.cfg.imgEnd ≤ x → m.read x = s.flash.read x)
      ∧ (es ≠ [] → s.cursor.toNat + clampLen s.cfg n ≤ s.cfg.imgEnd)
      ∧ (∀ e ∈ es, (∃ b, e = .flashPrepare (sectorFirst s.cfg) (sectorLast s.cfg) b)
          ∨ (∃ b, e = .flashErase (sectorFirst s.cfg) (sectorLast s.cfg) b)
          ∨ (∃ b, e = .flashWrite s.cursor.toNat .pktbuf (clampLen s.cfg n) b)
          ∨ ∃ b, e = .flashCompare s.cursor.toNat .pktbuf (clampLen s.cfg n) b)
      ∧ (a = .fail → cur = s.cursor)
      ∧ (a = .ok → .flashCompare s.cursor.toNat .pktbuf (clampLen s.cfg n) true ∈ es
          ∧ Advanced s.cfg (clampLen s.cfg n) s.cursor cur) := by
  unfold program
  by_cases hb : s.cfg.imgEnd < s.cursor.toNat + clampLen s.cfg n
  · rw [if_pos hb]
    exact ⟨.fail, s.erased, s.cursor, s.flash, s.draws, [], by simp [failed, setOk], id,
      fun h => ⟨h, fun _ _ => rfl⟩, fun _ _ _ _ _ => rfl, by simp, by simp, fun _ => rfl, by simp⟩
  · rw [if_neg hb]
    replace hb := Nat.le_of_not_lt hb
    cases he : s.erased
    · obtain ⟨a, m, d, es, h1, hw, hes, hout⟩ := sessionErase_next s
      rw [eraseIfOwed_eq, he, if_neg (by simp), h1]
      cases a
      · rw [andThen_ok rfl]
        obtain ⟨a', m', d', es', h2, hw', hr', hes', hf', ho'⟩ := writeVerified_next (clampLen s.cfg n)
          { s with ok := true, erased := true, flash := m, draws := d, history := s.history ++ es } hlen
        simp only [decide_true, Bool.or_true]
        refine ⟨a', true, _, m', d', es ++ es', by rw [h2]; simp, fun h => hw' (hw h), by simp,
          fun ha hc x hx hxr => ?_, fun _ => hb, ?_, hf', fun h => ⟨?_, (ho' h).2⟩⟩
        · rw [← hout ha x hx hxr]
          refine hr' x ?_
          simp only
          omega
        · intro e h
          rcases List.mem_append.mp h with h | h
          · obtain ⟨b, h | h⟩ := hes e h
            · exact .inl ⟨b, h⟩
            · exact .inr (.inl ⟨b, h⟩)
          · rcases hes' e h with h | h | h
            · exact .inl h
            · exact .inr (.inr (.inl h))
            · exact .inr (.inr (.inr h))
        · exact List.mem_append.mpr (.inr (ho' h).1)
      · rw [andThen_fail rfl]
        refine ⟨.fail, false, s.cursor, m, d, es, by simp [failed, setOk, he], hw, by simp,
          fun ha _ x hx hxr => hout ha x hx hxr, fun _ => hb, ?_, fun _ => rfl, by simp⟩
        intro e h
        obtain ⟨b, h | h⟩ := hes e h
        · exact .inl ⟨b, h⟩
        · exact .inr (.inl ⟨b, h⟩)
    · rw [eraseIfOwed_eq, he, if_pos rfl, andThen_ok rfl]
      obtain ⟨a', m', d', es', h2, hw', hr', hes', hf', ho'⟩ := writeVerified_next (clampLen s.cfg n) s hlen
      refine ⟨a', true, _, m', d', es', by rw [h2]; simp [he], hw', fun _ => ⟨rfl, hr'⟩,
        fun ha hc x hx hxr => hr' x ?_, fun _ => hb, ?_, hf', ho'⟩
      · omega
      · intro e h
        rcases hes' e h with h | h | h
        · exact .inl h
        · exact .inr (.inr (.inl h))
        · exact .inr (.inr (.inr h))

/-- R185: the base of the trailer's unit and its end. -/
theorem trailerBase_add {c : Config} (h : admitted c = true) :
    c.imgStart ≤ trailerBase c ∧ trailerBase c + c.trailerUnit = c.imgEnd := by
  obtain ⟨-, -, -, hlt, -, -, ht, -⟩ := (admitted_iff c).mp h
  unfold trailerBase
  omega

theorem patchedUnit_length (c : Config) (v : Half) (unit : List Byte) :
    (patchedUnit c v unit).length = unit.length := by
  simp [patchedUnit]

/-- R185, from the first prepare on: it writes `OK`, flash, the draws and the history, and makes these requests. -/
theorem rewriteUnit_next (s : State) (hl : s.scratch.length = s.cfg.trailerUnit) :
    ∃ a m d es, rewriteUnit s = (a, { s with ok := decide (a = .ok), flash := m, draws := d,
                                             history := s.history ++ es })
      ∧ (s.flash.wf → m.wf)
      ∧ (admitted s.cfg = true → ∀ x, x < Config.addrSpace → x < trailerBase s.cfg ∨ s.cfg.imgEnd ≤ x →
          m.read x = s.flash.read x)
      ∧ (∀ e ∈ es, (∃ b, e = .flashPrepare (trailerSector s.cfg) (trailerSector s.cfg) b)
          ∨ (∃ b, e = .flashErase (trailerSector s.cfg) (trailerSector s.cfg) b)
          ∨ ∃ b, e = .flashWrite (trailerBase s.cfg) .scratch s.cfg.trailerUnit b) := by
  obtain ⟨d, hp⟩ := flashPrepare_next (trailerSector s.cfg) (trailerSector s.cfg) s
  unfold rewriteUnit
  rw [hp]
  generalize (drawPrepare s).1 = b1
  cases b1
  · rw [andThen_ok rfl]
    obtain ⟨m, d2, he, hw, -, -⟩ := flashErase_next (trailerSector s.cfg) (trailerSector s.cfg) { s with
      draws := d, history := s.history ++ [.flashPrepare (trailerSector s.cfg) (trailerSector s.cfg) .ok] }
    have hout : admitted s.cfg = true → ∀ x, x < Config.addrSpace → x < trailerBase s.cfg ∨ s.cfg.imgEnd ≤ x →
        m.read x = s.flash.read x := by
      intro ha x hx hr
      obtain ⟨-, -, -, -, -, -, -, hpe, -, -, ht⟩ := (admitted_iff s.cfg).mp ha
      have := flashErase_outside (s := { s with
        draws := d, history := s.history ++ [.flashPrepare (trailerSector s.cfg) (trailerSector s.cfg) .ok] })
        ht hpe hx hr
      rwa [he] at this
    simp only
    rw [he]
    generalize (drawErase _).1 = b2
    cases b2
    · rw [andThen_ok rfl]
      obtain ⟨d3, hp3⟩ := flashPrepare_next (trailerSector s.cfg) (trailerSector s.cfg) { s with
        flash := m, draws := d2, history := s.history
          ++ [.flashPrepare (trailerSector s.cfg) (trailerSector s.cfg) .ok]
          ++ [.flashErase (trailerSector s.cfg) (trailerSector s.cfg) .ok] }
      simp only
      rw [hp3]
      generalize (drawPrepare _).1 = b3
      cases b3
      · rw [andThen_ok rfl]
        obtain ⟨bytes, d4, hw4, hbl, -⟩ := flashWrite_next (trailerBase s.cfg) .scratch s.cfg.trailerUnit { s with
          flash := m, draws := d3, history := s.history
            ++ [.flashPrepare (trailerSector s.cfg) (trailerSector s.cfg) .ok]
            ++ [.flashErase (trailerSector s.cfg) (trailerSector s.cfg) .ok]
            ++ [.flashPrepare (trailerSector s.cfg) (trailerSector s.cfg) .ok] } (by simp [bufBytes, hl])
        have hout' : admitted s.cfg = true → ∀ x, x < Config.addrSpace → x < trailerBase s.cfg ∨ s.cfg.imgEnd ≤ x →
            (m.patch s.stuck (trailerBase s.cfg) bytes).read x = s.flash.read x := by
          intro ha x hx hr
          have := (trailerBase_add ha).2
          rw [Memory.read_patch, if_neg (by omega)]
          exact hout ha x hx hr
        simp only
        rw [hw4]
        generalize (drawWrite _).1 = b4
        cases b4
        · rw [andThen_ok rfl]
          refine ⟨.ok, _, d4, [.flashPrepare (trailerSector s.cfg) (trailerSector s.cfg) .ok,
            .flashErase (trailerSector s.cfg) (trailerSector s.cfg) .ok,
            .flashPrepare (trailerSector s.cfg) (trailerSector s.cfg) .ok,
            .flashWrite (trailerBase s.cfg) .scratch s.cfg.trailerUnit .ok], by simp [setOk],
            fun h => Memory.wf_patch _ _ _ (hw h), hout', by simp⟩
        · rw [andThen_fail rfl]
          refine ⟨.fail, _, d4, [.flashPrepare (trailerSector s.cfg) (trailerSector s.cfg) .ok,
            .flashErase (trailerSector s.cfg) (trailerSector s.cfg) .ok,
            .flashPrepare (trailerSector s.cfg) (trailerSector s.cfg) .ok,
            .flashWrite (trailerBase s.cfg) .scratch s.cfg.trailerUnit .fail], by simp [failed, setOk],
            fun h => Memory.wf_patch _ _ _ (hw h), hout', by simp⟩
      · rw [andThen_fail rfl]
        exact ⟨.fail, m, d3, [.flashPrepare (trailerSector s.cfg) (trailerSector s.cfg) .ok,
          .flashErase (trailerSector s.cfg) (trailerSector s.cfg) .ok,
          .flashPrepare (trailerSector s.cfg) (trailerSector s.cfg) .fail], by simp [failed, setOk], hw, hout, by simp⟩
    · rw [andThen_fail rfl]
      exact ⟨.fail, m, d2, [.flashPrepare (trailerSector s.cfg) (trailerSector s.cfg) .ok,
        .flashErase (trailerSector s.cfg) (trailerSector s.cfg) .fail], by simp [failed, setOk], hw, hout, by simp⟩
  · rw [andThen_fail rfl]
    exact ⟨.fail, s.flash, d, [.flashPrepare (trailerSector s.cfg) (trailerSector s.cfg) .fail],
      by simp [failed, setOk], id, fun _ _ _ _ => rfl, by simp⟩

/-- R185: WRITE_TRAILER writes `OK`, `SCRATCH`, flash, the draws and the history; it reads the unit, then makes these
requests. -/
theorem writeTrailer_next (v : Half) (s : State) :
    ∃ a m d es, writeTrailer v s = (a, { s with
        ok := decide (a = .ok), flash := m, draws := d,
        scratch := patchedUnit s.cfg v (s.flash.readRange (trailerBase s.cfg) s.cfg.trailerUnit),
        history := s.history
          ++ (List.range' (trailerBase s.cfg) s.cfg.trailerUnit).map (fun x => .memRead x (s.flash.read x)) ++ es })
      ∧ (s.flash.wf → m.wf)
      ∧ (admitted s.cfg = true → ∀ x, x < Config.addrSpace → x < trailerBase s.cfg ∨ s.cfg.imgEnd ≤ x →
          m.read x = s.flash.read x)
      ∧ (∀ e ∈ es, (∃ b, e = .flashPrepare (trailerSector s.cfg) (trailerSector s.cfg) b)
          ∨ (∃ b, e = .flashErase (trailerSector s.cfg) (trailerSector s.cfg) b)
          ∨ ∃ b, e = .flashWrite (trailerBase s.cfg) .scratch s.cfg.trailerUnit b) := by
  obtain ⟨a, m, d, es, h, hw, hout, hes⟩ := rewriteUnit_next (copyUnit v s)
    (by simp [patchedUnit_length])
  refine ⟨a, m, d, es, ?_, ?_, ?_, ?_⟩
  · unfold writeTrailer
    rw [h, copyUnit_eq]
    rfl
  · simpa using hw
  · simpa using hout
  · simpa using hes

end Sys2Proof.Machine
end

