-- ==== Sys2Proof/Laws/PerInstr.lean ====
section
/-!
SUPPORT. One lemma per instruction of the family TableMatch: the code the encoder gives an instruction has the bits that the
instruction's row of spec/opcode_table.json fixes (its match under its mask), and where the row gives a match there is
a code.
-/

namespace Sys2Proof.Laws.TableMatch

/-- The match and the mask of the instruction's row of spec/opcode_table.json; none where the table gives none. -/
def row : Instr → Option (Nat × Nat)
  | .sohPolling | .sohReceiving => some (0x01, 0xFF)
  | .stxPolling | .stxReceiving => some (0x02, 0xFF)
  | .eotReceiving => some (0x04, 0xFF)
  | .otherPolling _ | .otherReceiving _ | .rxIndex _ | .rxIndexInv _ | .rxPayload _ | .rxCrcHi _ | .rxCrcLo _ =>
    some (0x00, 0x00)
  | .txPoll => some (0x43, 0xFF)
  | .txAck => some (0x06, 0xFF)
  | .txNak => some (0x15, 0xFF)
  | .nop => some (0x0, 0xF)
  | .cmdCrc => some (0x1, 0xF)
  | .cmdCheck => some (0x2, 0xF)
  | .cmdTrailer => some (0x3, 0xF)
  | .cmdReserved _ => some (0x4, 0xC)
  | .cmdReserved8F _ => some (0x8, 0x8)
  | .cmdBusy _ => some (0x0, 0x0)
  | .argWrite _ _ | .rxIdlePoll | .rxPollingTimeout | .rxPollingNothing | .rxPacketTimeout | .rxReceivingNothing | .rxDone
  | .crc16Step _ _ | .crc16 _ | .sessionErase | .program _ | .writeTrailer _ | .isAppValid
  | .seqCheck | .seqErase | .seqReceive | .seqFinish | .seqApp | .seqRestart => none

/-- The bits of a code as the table numbers them. -/
def bits : Code → Nat
  | .rx b => b.toNat
  | .tx b => b.toNat
  | .write _ w => w.toNat

/-- The encoder agrees with the row: where the row gives a match, the instruction has a code with those bits. -/
def Statement (i : Instr) : Prop :=
  match row i with
  | some (m, mask) => (encode i).map (fun code => bits code &&& mask) = some m
  | none => True

theorem rxIdlePoll : Statement .rxIdlePoll := trivial
theorem sohPolling : Statement .sohPolling := Eq.refl _
theorem stxPolling : Statement .stxPolling := Eq.refl _
theorem otherPolling (b : Byte) : Statement (.otherPolling b) := congrArg some (Nat.and_zero _)
theorem rxPollingTimeout : Statement .rxPollingTimeout := trivial
theorem rxPollingNothing : Statement .rxPollingNothing := trivial
theorem sohReceiving : Statement .sohReceiving := Eq.refl _
theorem stxReceiving : Statement .stxReceiving := Eq.refl _
theorem eotReceiving : Statement .eotReceiving := Eq.refl _
theorem otherReceiving (b : Byte) : Statement (.otherReceiving b) := congrArg some (Nat.and_zero _)
theorem rxIndex (b : Byte) : Statement (.rxIndex b) := congrArg some (Nat.and_zero _)
theorem rxIndexInv (b : Byte) : Statement (.rxIndexInv b) := congrArg some (Nat.and_zero _)
theorem rxPayload (b : Byte) : Statement (.rxPayload b) := congrArg some (Nat.and_zero _)
theorem rxCrcHi (b : Byte) : Statement (.rxCrcHi b) := congrArg some (Nat.and_zero _)
theorem rxCrcLo (b : Byte) : Statement (.rxCrcLo b) := congrArg some (Nat.and_zero _)
theorem rxPacketTimeout : Statement .rxPacketTimeout := trivial
theorem rxReceivingNothing : Statement .rxReceivingNothing := trivial
theorem rxDone : Statement .rxDone := trivial
theorem txPoll : Statement .txPoll := Eq.refl _
theorem txAck : Statement .txAck := Eq.refl _
theorem txNak : Statement .txNak := Eq.refl _
theorem nop : Statement .nop := Eq.refl _
theorem cmdCrc : Statement .cmdCrc := Eq.refl _
theorem cmdCheck : Statement .cmdCheck := Eq.refl _
theorem cmdTrailer : Statement .cmdTrailer := Eq.refl _
theorem cmdReserved (low : BitVec 2) : Statement (.cmdReserved low) := by
  unfold Statement row; revert low; decide
theorem cmdReserved8F (low : BitVec 3) : Statement (.cmdReserved8F low) := by
  unfold Statement row; revert low; decide
theorem cmdBusy (cmd : BitVec 4) : Statement (.cmdBusy cmd) := congrArg some (Nat.and_zero _)
theorem argWrite (reg : ArgReg) (w : Word) : Statement (.argWrite reg w) := trivial
theorem crc16Step (c : Half) (b : Byte) : Statement (.crc16Step c b) := trivial
theorem crc16 (bytes : List Byte) : Statement (.crc16 bytes) := trivial
theorem sessionErase : Statement .sessionErase := trivial
theorem program (size : SizeClass) : Statement (.program size) := trivial
theorem writeTrailer (v : Half) : Statement (.writeTrailer v) := trivial
theorem isAppValid : Statement .isAppValid := trivial
theorem seqCheck : Statement .seqCheck := trivial
theorem seqErase : Statement .seqErase := trivial
theorem seqReceive : Statement .seqReceive := trivial
theorem seqFinish : Statement .seqFinish := trivial
theorem seqApp : Statement .seqApp := trivial
theorem seqRestart : Statement .seqRestart := trivial

end Sys2Proof.Laws.TableMatch
end

