-- ==== Sys2Proof/Laws/Steps.lean ====
section
/-!
SUPPORT. What one step can be (step_next), what a host write can be (decodeWrite_cases), and what a sample of the line
leaves (sampleLine_next). A proof about every step goes through these.
-/

namespace Sys2Proof.Machine

/-- The state a turn is taken in: the state of the step with its turn taken off the list. -/
theorem turns_tail_of_nil {s : State} (h : s.turns = []) : { s with turns := s.turns.tail } = s := by
  cases s; simp_all

/-- R271: a step cut short answers the reset of what it would have answered. -/
theorem losePower_next {o : Host.Outcome State Fault Refusal} {t : State} (h : losePower o = .next t) :
    ∃ v, o = .next v ∧ t = applyReset v := by
  cases o with
  | next v => injection h with h; exact ⟨v, rfl, h.symm⟩
  | fault r => exact absurd h (by simp [losePower])
  | refused r => exact absurd h (by simp [losePower])

/-- R35, R36: a host write is ignored, or runs what its word decodes to. -/
theorem hostWriteTurn_cases (addr width : Nat) (w : Word) (s : State) :
    hostWriteTurn addr width w s = .quiet s
    ∨ ∃ off i, decodeWrite s.top off w = .ok i ∧ hostWriteTurn addr width w s = .run i s := by
  unfold hostWriteTurn hostWriteInstr
  cases windowOffset s.cfg addr width with
  | none => exact .inl rfl
  | some off =>
    cases hd : decodeWrite s.top off w with
    | error r => simp [hd, Except.toOption]
    | ok i => exact .inr ⟨off, i, hd, by simp [hd, Except.toOption]⟩

/-- R9, R214: a step that answers a next state is the core's, a host write's, or an environment turn's. -/
theorem step_next {s t : State} (h : step s = .next t) :
    admitted s.cfg = true ∧ ∃ u, u = { s with turns := s.turns.tail } ∧
      (exec (decodeTop s.top) u = .next t
      ∨ (∃ off w i, decodeWrite s.top off w = .ok i ∧ exec i u = .next t)
      ∨ t = u
      ∨ (∃ v a w, s.turns.head? = some (.hostRead a w) ∧ t = { u with hostRd := v })
      ∨ (s.top = .app ∧ ∃ a b, t = { u with flash := u.flash.patch u.stuck a [b] })
      ∨ (s.turns.head? = some .reset ∧ t = applyReset u)
      ∨ ∃ r, s.turns.head? = some (.powerLoss r) ∧ ∃ v, t = applyReset v ∧
          (r = .core ∧ exec (decodeTop s.top) u = .next v
          ∨ (∃ off w i, decodeWrite s.top off w = .ok i ∧ exec i u = .next v)
          ∨ v = u)) := by
  unfold step at h
  split at h
  case isFalse => simp at h
  case isTrue ha =>
    refine ⟨ha, _, rfl, ?_⟩
    unfold fetch at h
    cases hts : s.turns with
    | nil =>
      rw [hts] at h
      left
      have := turns_tail_of_nil hts
      rw [hts] at this
      rw [this]
      exact h
    | cons x rest =>
      rw [hts] at h
      cases x with
      | core => exact .inl h
      | hostWrite addr width w =>
        rcases hostWriteTurn_cases addr width w { s with turns := rest } with hq | ⟨off, i, hd, hq⟩
        · simp only [takeTurn, hq] at h
          injection h with h
          exact .inr (.inr (.inl h.symm))
        · simp only [takeTurn, hq] at h
          exact .inr (.inl ⟨off, w, i, hd, h⟩)
      | hostRead addr width =>
        injection h with h
        exact .inr (.inr (.inr (.inl ⟨_, addr, width, rfl, h.symm⟩)))
      | hostFlash a b =>
        by_cases htop : s.top = .app
        · simp only [takeTurn, hostFlashTurn, htop, if_true] at h
          injection h with h
          exact .inr (.inr (.inr (.inr (.inl ⟨htop, a.toNat, b, by rw [← h, ← htop]; rfl⟩))))
        · simp [takeTurn, hostFlashTurn, htop] at h
      | reset =>
        injection h with h
        exact .inr (.inr (.inr (.inr (.inr (.inl ⟨rfl, h.symm⟩)))))
      | powerLoss r =>
        refine .inr (.inr (.inr (.inr (.inr (.inr ⟨r, rfl, ?_⟩)))))
        cases r with
        | core =>
          obtain ⟨v, hv, ht⟩ := losePower_next h
          exact ⟨v, ht, .inl ⟨rfl, hv⟩⟩
        | hostWrite addr width w =>
          rcases hostWriteTurn_cases addr width w { s with turns := rest } with hq | ⟨off, i, hd, hq⟩
          · simp only [takeTurn, requesterTurn, hq, powerLossTurn] at h
            injection h with h
            exact ⟨_, h.symm, .inr (.inr rfl)⟩
          · simp only [takeTurn, requesterTurn, hq, powerLossTurn] at h
            obtain ⟨v, hv, ht⟩ := losePower_next h
            exact ⟨v, ht, .inr (.inl ⟨off, w, i, hd, hv⟩)⟩

/-- R35, R218, R224: what a write of the window can stand for, and where a command is accepted. -/
theorem decodeWrite_cases {top : Top} {off : Nat} {w : Word} {i : Instr} (h : decodeWrite top off w = .ok i) :
    i = .nop ∨ (∃ r v, i = .argWrite r v) ∨ (∃ c, i = .cmdBusy c)
    ∨ top = .app ∧ (i = .cmdCrc ∨ i = .cmdCheck ∨ i = .cmdTrailer ∨ (∃ l, i = .cmdReserved l) ∨ ∃ l, i = .cmdReserved8F l) := by
  unfold decodeWrite at h
  split at h
  · injection h with h
    subst h
    unfold decodeCtrl
    split
    · exact .inl rfl
    · split
      · rename_i h0 happ
        unfold decodeCmd
        rw [if_neg h0]
        split
        · exact .inr (.inr (.inr ⟨happ, .inl rfl⟩))
        · split
          · exact .inr (.inr (.inr ⟨happ, .inr (.inl rfl)⟩))
          · split
            · exact .inr (.inr (.inr ⟨happ, .inr (.inr (.inl rfl))⟩))
            · split
              · exact .inr (.inr (.inr ⟨happ, .inr (.inr (.inr (.inr ⟨_, rfl⟩)))⟩))
              · exact .inr (.inr (.inr ⟨happ, .inr (.inr (.inr (.inl ⟨_, rfl⟩)))⟩))
      · exact .inr (.inr (.inl ⟨_, rfl⟩))
  · split at h
    · injection h with h
      exact .inr (.inl ⟨_, _, h.symm⟩)
    · split at h
      · injection h with h
        exact .inr (.inl ⟨_, _, h.symm⟩)
      · simp at h

/-- R249: a call of `TimerExpired` writes the timer, the draws and the history; in the expired state it answers true. -/
theorem timerExpired_next (s : State) :
    ∃ d b, timerExpired s = (b, { s with
        draws := d, timer := timerAfter b s.timer, history := s.history ++ [.timerExpired b] })
      ∧ (s.timer.latched = true → b = true) := by
  obtain ⟨d, hd⟩ := drawTimer_next s
  exact ⟨d, s.timer.latched || (drawTimer s).1, by rw [timerExpired_eq, hd]; rfl, fun h => by simp [h]⟩

/-- R14: a sample of `Rx` writes the draws and the history. -/
theorem rxSample_next (s : State) :
    ∃ d r, rxSample s = (r, { s with draws := d, history := s.history ++ [.rx r] }) := by
  obtain ⟨d, hd⟩ := drawRx_next s
  exact ⟨d, (drawRx s).1, by rw [rxSample_eq, hd]; rfl⟩

/-- R140: a sample of the line writes the timer, the draws and the history. -/
theorem sampleLine_next (s : State) :
    ∃ x d tm es, sampleLine s = (x, { s with draws := d, timer := tm, history := s.history ++ es })
      ∧ (tm = s.timer ∨ ∃ b, tm = timerAfter b s.timer)
      ∧ ∀ e ∈ es, (∃ r, e = .rx r) ∨ ∃ b, e = .timerExpired b := by
  obtain ⟨d, r, h⟩ := rxSample_next s
  rw [sampleLine_eq, h]
  cases r
  · obtain ⟨d', b, ht, -⟩ := timerExpired_next { s with draws := d, history := s.history ++ [.rx none] }
    simp only
    rw [ht]
    exact ⟨if b then .expired else .quiet, d', timerAfter b s.timer, [.rx none, .timerExpired b], by simp, .inr ⟨b, rfl⟩, by simp⟩
  · exact ⟨_, d, s.timer, [.rx (some _)], rfl, .inl rfl, by simp⟩

end Sys2Proof.Machine
end

