-- ==== Sys2Proof/Tests/Slice0.lean ====
section
/-!
SUPPORT. The model's own tests: ill-formed terms refused, words written out from the spec's encodings decoded, single steps
checked against the vectors of spec/95_test_vectors.md, and a named witness for the hypotheses of every
obligation that has some. Expected results are the spec's, or worked out by hand from its rules.
-/

set_option maxRecDepth 100000

namespace Sys2Proof.Tests

open Sys2Proof.Machine

/-! ### Well-formedness: one ill-formed term for each check -/

theorem test_wf_refuses_soh_as_other_polling : Instr.wf (.otherPolling 0x01) = false := by decide
theorem test_wf_refuses_stx_as_other_polling : Instr.wf (.otherPolling 0x02) = false := by decide
theorem test_wf_refuses_soh_as_other_receiving : Instr.wf (.otherReceiving 0x01) = false := by decide
theorem test_wf_refuses_stx_as_other_receiving : Instr.wf (.otherReceiving 0x02) = false := by decide
theorem test_wf_refuses_eot_as_other_receiving : Instr.wf (.otherReceiving 0x04) = false := by decide
theorem test_wf_refuses_nop_as_busy : Instr.wf (.cmdBusy 0) = false := by decide
/-- R97: EOT is one of the 254 bytes dropped in `POLLING`. -/
theorem test_wf_accepts_eot_as_other_polling : Instr.wf (.otherPolling 0x04) = true := by decide

/-! ### Decoding: each constructor by a word written out from spec/30_encoding.md, or by the state that selects it -/

def polling : Ctx := ⟨.receive, .polling, 0, .short⟩
def receiving (offset : BitVec 11) (size : SizeClass) : Ctx := ⟨.receive, .receiving, offset, size⟩
def inTop (top : Top) : Ctx := ⟨top, .idle, 0, .short⟩

/-- R90, R97. -/
theorem test_decode_soh_polling : decode polling (.rx 0b0000_0001) = .ok .sohPolling := by decide
theorem test_decode_stx_polling : decode polling (.rx 0b0000_0010) = .ok .stxPolling := by decide
theorem test_decode_other_polling : decode polling (.rx 0b0100_0011) = .ok (.otherPolling 0x43) := by decide
theorem test_decode_soh_receiving : decode (receiving 0 .long) (.rx 0b0000_0001) = .ok .sohReceiving := by decide
theorem test_decode_stx_receiving : decode (receiving 0 .short) (.rx 0b0000_0010) = .ok .stxReceiving := by decide
theorem test_decode_eot_receiving : decode (receiving 0 .short) (.rx 0b0000_0100) = .ok .eotReceiving := by decide
theorem test_decode_other_receiving : decode (receiving 0 .short) (.rx 0b0001_1000) = .ok (.otherReceiving 0x18) := by decide
/-- R92: the positions of a packet; inside one, 0x01, 0x02 and 0x04 are data. -/
theorem test_decode_index : decode (receiving 1 .short) (.rx 0b0000_0100) = .ok (.rxIndex 0x04) := by decide
theorem test_decode_index_inv : decode (receiving 2 .short) (.rx 0b1111_1110) = .ok (.rxIndexInv 0xFE) := by decide
theorem test_decode_payload_first : decode (receiving 3 .short) (.rx 0b0000_0001) = .ok (.rxPayload 0x01) := by decide
theorem test_decode_payload_last_short : decode (receiving 130 .short) (.rx 0b1010_1010) = .ok (.rxPayload 0xAA) := by decide
theorem test_decode_payload_last_long : decode (receiving 1026 .long) (.rx 0b0101_1010) = .ok (.rxPayload 0x5A) := by decide
theorem test_decode_crc_hi_short : decode (receiving 131 .short) (.rx 0b1111_1000) = .ok (.rxCrcHi 0xF8) := by decide
theorem test_decode_crc_hi_long : decode (receiving 1027 .long) (.rx 0b1100_0010) = .ok (.rxCrcHi 0xC2) := by decide
theorem test_decode_crc_lo_short : decode (receiving 132 .short) (.rx 0b1011_0000) = .ok (.rxCrcLo 0xB0) := by decide
theorem test_decode_crc_lo_long : decode (receiving 1028 .long) (.rx 0b1110_0000) = .ok (.rxCrcLo 0xE0) := by decide
/-- U18. -/
theorem test_decode_past_the_packet : decode (receiving 133 .short) (.rx 0) = .error .offsetOutOfPacket := by decide
/-- R97: no byte is sampled in `IDLE`, in `DONE`, or outside `RECEIVE`. -/
theorem test_decode_not_sampled :
    decode (inTop .receive) (.rx 1) = .error .notSampled
    ∧ decode ⟨.receive, .done, 0, .short⟩ (.rx 1) = .error .notSampled
    ∧ decode ⟨.app, .polling, 0, .short⟩ (.rx 1) = .error .notSampled := by decide

/-- R99. -/
theorem test_decode_tx_poll : decode polling (.tx 0b0100_0011) = .ok .txPoll := by decide
theorem test_decode_tx_ack : decode polling (.tx 0b0000_0110) = .ok .txAck := by decide
theorem test_decode_tx_nak : decode polling (.tx 0b0001_0101) = .ok .txNak := by decide
theorem test_decode_tx_other : decode polling (.tx 0b0000_0001) = .error .neverTransmitted := by decide

/-- R101: bits 31 to 4 are ignored. -/
theorem test_decode_nop : decode (inTop .app) (.write 0x00 0xFFFF_FFF0) = .ok .nop := by decide
theorem test_decode_crc : decode (inTop .app) (.write 0x00 0xABCD_EF01) = .ok .cmdCrc := by decide
theorem test_decode_check : decode (inTop .app) (.write 0x00 0b0010) = .ok .cmdCheck := by decide
theorem test_decode_trailer : decode (inTop .app) (.write 0x00 0b0011) = .ok .cmdTrailer := by decide
theorem test_decode_reserved_4 : decode (inTop .app) (.write 0x00 0b0100) = .ok (.cmdReserved 0b00) := by decide
theorem test_decode_reserved_7 : decode (inTop .app) (.write 0x00 0b0111) = .ok (.cmdReserved 0b11) := by decide
theorem test_decode_reserved_8 : decode (inTop .app) (.write 0x00 0b1000) = .ok (.cmdReserved8F 0b000) := by decide
theorem test_decode_reserved_F : decode (inTop .app) (.write 0x00 0b1111) = .ok (.cmdReserved8F 0b111) := by decide
/-- R218: code 0 first, then busy, then the code. -/
theorem test_decode_busy : decode (inTop .finish) (.write 0x00 0b0111) = .ok (.cmdBusy 0x7) := by decide
theorem test_decode_nop_while_busy : decode (inTop .finish) (.write 0x00 0b1_0000) = .ok .nop := by decide
theorem test_decode_arg0 : decode (inTop .check) (.write 0x08 0x12345678) = .ok (.argWrite .arg0 0x12345678) := by decide
theorem test_decode_arg1 : decode (inTop .app) (.write 0x0C 0x80000001) = .ok (.argWrite .arg1 0x80000001) := by decide
/-- R35: a write of `STATUS` or of a reserved word is ignored. -/
theorem test_decode_ignored_writes :
    decode (inTop .app) (.write 0x04 1) = .error .ignoredWrite
    ∧ decode (inTop .app) (.write 0x3C 1) = .error .ignoredWrite := by decide

/-- R140, R141, R144, R145, R154, R155, R156: the receiver's rows without a byte. -/
theorem test_decode_receiver_rows :
    decodeReceiver (inTop .receive) .quiet = .ok .rxIdlePoll
    ∧ decodeReceiver polling .expired = .ok .rxPollingTimeout
    ∧ decodeReceiver polling .quiet = .ok .rxPollingNothing
    ∧ decodeReceiver (receiving 500 .long) .expired = .ok .rxPacketTimeout
    ∧ decodeReceiver (receiving 500 .long) .quiet = .ok .rxReceivingNothing
    ∧ decodeReceiver ⟨.receive, .done, 0, .short⟩ (.byte 4) = .ok .rxDone := by decide

/-- R214: the sequencer's rows. -/
theorem test_decode_sequencer_rows :
    decodeTop .check = .seqCheck ∧ decodeTop .app = .seqApp ∧ decodeTop .erase = .seqErase
    ∧ decodeTop .receive = .seqReceive ∧ decodeTop .finish = .seqFinish ∧ decodeTop .restart = .seqRestart := by decide

/-- notes/assumptions/17.md: the words of the opcode table. -/
theorem test_table_words :
    decodeTableWord 8 0x43 = some .txPoll ∧ decodeTableWord 8 0x06 = some .txAck ∧ decodeTableWord 8 0x15 = some .txNak
    ∧ decodeTableWord 8 0x00 = some .nop ∧ decodeTableWord 8 0x01 = some .cmdCrc ∧ decodeTableWord 8 0x02 = some .cmdCheck
    ∧ decodeTableWord 8 0x03 = some .cmdTrailer ∧ decodeTableWord 8 0x04 = some (.cmdReserved 0)
    ∧ decodeTableWord 8 0x08 = some (.cmdReserved8F 0) ∧ decodeTableWord 8 0x100 = none := by decide

/-! ### Steps, against the vectors of spec/95_test_vectors.md (configuration EX) -/

/-- A draw list with nothing written down. -/
def noDraws : Draws :=
  { rx := [], timer := [], prepare := [], erase := [], write := [], bytes := [], count := 0 }

/-- EX after reset, with the buffers' draws instantiated as zeros. -/
def ex : State :=
  { State.reset with pktbuf := Vector.replicate 1024 0, scratch := List.replicate 0x1000 0, draws := noDraws }

/-- EX in `RECEIVE`, with the answers of `Rx` and `TimerExpired` to come. -/
def exReceive (rxs : Rxs) (offset : BitVec 11) (size : SizeClass) (rx : List (Option Byte)) (timer : List Bool) : State :=
  { ex with top := .receive, rxs := rxs, offset := offset, size := size, draws := { noDraws with rx := rx, timer := timer } }

/-- EX with the host's turn next. -/
def exHost (top : Top) (t : Turn) : State := { ex with top := top, turns := [t] }

/-- The host's write of a register, by its offset. -/
def wr (offset : Nat) (w : Word) : Turn := .hostWrite (0x40000000 + offset) 4 w
/-- The host's read of a register, by its offset. -/
def rd (offset : Nat) : Turn := .hostRead (0x40000000 + offset) 4

/-- A part of the state one step later. -/
def after {α : Type} (s : State) (f : State → α) : Option α := (nextOf (step s)).map f

/-- The draws in which every request answers ok. -/
def allOk : Draws := { noDraws with prepare := [.ok, .ok], erase := [.ok], write := [.ok] }

/-- V-R1. -/
theorem test_idle_poll :
    after (exReceive .idle 0 .short [some 2] []) (fun t => (t.history, t.rxs))
      = some ([.tx 0x43, .timerStart 1000], .polling) := by decide
/-- V-R2. -/
theorem test_stx_polling :
    after (exReceive .polling 0 .short [some 2] []) (fun t => (t.history, t.size, t.offset, t.rxs))
      = some ([.rx (some 2), .timerStart 1000], .long, 1, .receiving) := by decide
/-- V-R3. -/
theorem test_soh_polling :
    after (exReceive .polling 0 .long [some 1] []) (fun t => (t.size, t.offset, t.rxs)) = some (.short, 1, .receiving) := by
  decide
/-- V-R4: EOT is dropped in `POLLING`. -/
theorem test_eot_polling :
    after (exReceive .polling 0 .short [some 4] []) (fun t => (t.history, t.rxs, t.malformed))
      = some ([.rx (some 4)], .polling, false) := by decide
/-- V-R6. -/
theorem test_polling_tick :
    after (exReceive .polling 0 .short [none] [true]) (fun t => (t.history, t.rxs))
      = some ([.rx none, .timerExpired true, .tx 0x43, .timerStart 1000], .polling) := by decide
/-- V-R7. -/
theorem test_polling_idle :
    after (exReceive .polling 0 .short [none] [false]) (fun t => (t.history, t.rxs))
      = some ([.rx none, .timerExpired false], .polling) := by decide
/-- V-R8. -/
theorem test_soh_receiving :
    after (exReceive .receiving 0 .long [some 1] []) (fun t => (t.size, t.offset, t.rxs)) = some (.short, 1, .receiving) := by
  decide
theorem test_stx_receiving :
    after (exReceive .receiving 0 .short [some 2] []) (fun t => (t.size, t.offset, t.timer)) = some (.long, 1, .running 1000) := by
  decide
/-- V-R9. -/
theorem test_eot_receiving :
    after (exReceive .receiving 0 .short [some 4] []) (fun t => (t.history, t.rxs, t.top))
      = some ([.rx (some 4), .tx 0x06], .done, .finish) := by decide
/-- V-R10. -/
theorem test_other_receiving :
    after (exReceive .receiving 0 .short [some 0x43] []) (fun t => (t.history, t.malformed, t.offset))
      = some ([.rx (some 0x43)], true, 0) := by decide
/-- V-R11. -/
theorem test_index :
    after (exReceive .receiving 1 .short [some 7] []) (fun t => (t.pktnum, t.offset)) = some (7, 2) := by decide
/-- V-R12: the inverted index is not checked. -/
theorem test_index_inv :
    after (exReceive .receiving 2 .short [some 7] []) (fun t => (t.pktnumInv, t.offset)) = some (7, 3) := by decide
/-- V-R13: 0x04 inside a packet is data. -/
theorem test_payload_eot_byte :
    after (exReceive .receiving 3 .short [some 4] []) (fun t => (t.pktbuf[0]?, t.offset, t.top))
      = some (some 4, 4, .receive) := by decide
/-- V-R15. -/
theorem test_payload_last_long :
    after (exReceive .receiving 1026 .long [some 0x5A] []) (fun t => (t.pktbuf[1023]?, t.offset))
      = some (some 0x5A, 1027) := by decide
/-- V-R16. -/
theorem test_crc_hi_short :
    after (exReceive .receiving 131 .short [some 0xF8] []) (fun t => (t.rxcrc, t.offset)) = some (0xF800, 132) := by decide
/-- V-R17. -/
theorem test_crc_hi_long :
    after (exReceive .receiving 1027 .long [some 0xC2] []) (fun t => (t.rxcrc, t.offset)) = some (0xC200, 1028) := by decide
/-- Program P4: the short packet of zeros, whose CRC is 0: a clamped write of 256 bytes, verified and acknowledged. -/
theorem test_crc_lo_match :
    after { exReceive .receiving 132 .short [some 0] [] with erased := true, draws := { allOk with rx := [some 0] } }
        (fun t => (t.history, t.cursor, t.ok, t.offset))
      = some ([.rx (some 0), .flashPrepare 2 3 .ok, .flashWrite 0x2000 .pktbuf 256 .ok,
          .flashCompare 0x2000 .pktbuf 256 true, .tx 0x06], 0x2100, true, 0) := by decide +kernel
/-- V-R19: on a CRC mismatch PROGRAM is not invoked, and `OK` and `CURSOR` stay. -/
theorem test_crc_lo_mismatch :
    after { exReceive .receiving 132 .short [some 1] [] with ok := true } (fun t => (t.history, t.rxcrc, t.ok, t.offset))
      = some ([.rx (some 1), .tx 0x15], 0x0001, true, 0) := by decide +kernel
/-- V-R21. -/
theorem test_packet_timeout :
    after (exReceive .receiving 500 .long [none] [true]) (fun t => (t.pktTimeout, t.offset, t.history))
      = some (true, 500, [.rx none, .timerExpired true]) := by decide
/-- V-R23. -/
theorem test_receiving_nothing :
    after (exReceive .receiving 500 .long [none] [false]) (fun t => (t.pktTimeout, t.offset)) = some (false, 500) := by decide
/-- R156. -/
theorem test_done :
    after (exReceive .done 0 .short [some 4] [true]) (fun t => (t.history, t.rxs)) = some ([], .done) := by decide
/-- V-R24: a byte goes before an expired timer. -/
theorem test_byte_before_timer :
    after (exReceive .polling 0 .short [some 2] [true]) (fun t => (t.history, t.draws.timer))
      = some ([.rx (some 2), .timerStart 1000], [true]) := by decide
/-- R249: an expired timer answers true whatever is drawn. -/
theorem test_expired_stays :
    after { exReceive .receiving 0 .short [none] [false] with timer := .expired 1000 } (fun t => (t.pktTimeout, t.timer))
      = some (true, .expired 1000) := by decide

/-- A small region, `[256, 512)` with a trailer unit of 128 bytes, whose data span has 252 bytes. -/
def tiny : Config where
  imgStart := 256
  imgEnd := 512
  writePage := 128
  sectors := [⟨0, 256, 0⟩, ⟨256, 128, 1⟩, ⟨384, 128, 2⟩, ⟨512, 4294966784, 3⟩]
  trailerUnit := 128
  pollTimeoutMs := 7
  packetTimeoutMs := 9
  regBase := 4096

/-- The small region after reset. -/
def small : State := { ex with cfg := tiny, cursor := 256, scratch := List.replicate 128 0 }

theorem test_small_admitted : admitted tiny = true ∧ small.cfg = tiny := by decide
/-- The next state of an instruction run by itself, in part. -/
def ran {α : Type} (i : Instr) (s : State) (f : State → α) : Option α := (nextOf (exec i s)).map f

/-- R99: the transmitted bytes. -/
theorem test_tx :
    ran .txPoll ex (·.history) = some [.tx 0x43] ∧ ran .txAck ex (·.history) = some [.tx 0x06]
    ∧ ran .txNak ex (·.history) = some [.tx 0x15] := by decide

/-- V-C3, V-C4, V-C5, V-C6, V-C7. -/
theorem test_crc16_step :
    crcStep 0x0000 0x80 = 0x9188 ∧ crcStep 0x0000 0xFF = 0x1EF0 ∧ crcStep 0xFFFF 0xFF = 0xFF00
    ∧ crcStep 0x1021 0x00 = 0x3331 ∧ crcStep 0x8000 0x00 = 0x9188 ∧ crcStep 0x0001 0x00 = 0x0100
    ∧ ran (.crc16Step 0x0000 0x01) ex (·.ret) = some (.crc 0x1021) := by decide
/-- V-C8, V-C10, V-C18, and V-C13 for 128 bytes. -/
theorem test_crc16 :
    ran (.crc16 [0x31, 0x32, 0x33, 0x34, 0x35, 0x36, 0x37, 0x38, 0x39]) ex (·.ret) = some (.crc 0x31C3)
    ∧ crcOf [0x01, 0x02] = 0x1373 ∧ crcOf [0x02, 0x01] = 0x7643
    ∧ crcOf [0x31, 0x32, 0x33, 0x34, 0x35, 0x36, 0x37, 0x38, 0x39, 0x31, 0xC3] = 0
    ∧ crcOf (List.replicate 128 0x1A) = 0xF8B0 := by decide +kernel
/-- V-C15: `INC`. -/
theorem test_crc16_inc : crcOf ((List.range 1024).map (BitVec.ofNat 8)) = 0xC2E0 := by decide +kernel

/-- V-P1. -/
theorem test_session_erase_ok :
    ran .sessionErase { ex with flash := [(0x1FFF, 1), (0x2000, 2), (0x3FFF, 3), (0x4000, 4)], draws := allOk }
        (fun t => (t.history, t.erased, t.ok, t.flash))
      = some ([.flashPrepare 2 3 .ok, .flashErase 2 3 .ok], true, true, [(0x1FFF, 1), (0x4000, 4)]) := by
  decide
/-- V-P2. -/
theorem test_session_erase_prepare_fail :
    ran .sessionErase { ex with ok := true, draws := { allOk with prepare := [.fail] } }
        (fun t => (t.history, t.erased, t.ok, t.ret))
      = some ([.flashPrepare 2 3 .fail], false, false, .answer .fail) := by decide
/-- V-P5 in `[0x3F00, 0x4000)`, which is V-P10: a write that ends exactly at `IMG_END`. -/
theorem test_program_to_the_end :
    ran (.program .short) { ex with cursor := 0x3F00, erased := true, draws := allOk }
        (fun t => (t.cursor, t.ok, t.flash.read 0x3FFC, t.flash.read 0x3EFF))
      = some (0x4000, true, 0x00, 0xFF) := by decide +kernel
/-- V-P11, V-P13, V-P16: past the region no request is issued; an owed erase that fails ends the operation; a flash that
keeps a byte makes the compare mismatch. `CURSOR` stays. -/
theorem test_program_fails :
    ran (.program .long) { ex with cursor := 0x3E00, erased := true, ok := true, draws := allOk }
        (fun t => (t.cursor, t.ok, t.history, t.ret)) = some (0x3E00, false, [], .answer .fail)
    ∧ ran (.program .short) { ex with draws := { allOk with prepare := [.fail] } }
        (fun t => (t.cursor, t.ok, t.erased, t.history)) = some (0x2000, false, false, [.flashPrepare 2 3 .fail])
    ∧ ran (.program .short) { ex with stuck := [0x2005], erased := true, draws := allOk }
        (fun t => (t.cursor, t.ok, t.history))
      = some (0x2000, false, [.flashPrepare 2 3 .ok, .flashWrite 0x2000 .pktbuf 256 .ok,
          .flashCompare 0x2000 .pktbuf 256 false]) := by decide +kernel
/-- V-P17 on erased flash: the unit's last word. -/
theorem test_write_trailer :
    ran (.writeTrailer 0x6F33) { ex with draws := allOk }
        (fun t => (t.flash, t.ok, t.ret)) = some ([(0x3FFC, 0x33), (0x3FFD, 0x6F)], true, .answer .ok) := by decide +kernel
/-- V-P18. -/
theorem test_write_trailer_prepare_fail :
    ran (.writeTrailer 0x1234) { small with flash := [(508, 0x82)], draws := { allOk with prepare := [.fail] } }
        (fun t => (t.flash, t.ok)) = some ([(508, 0x82)], false) := by decide +kernel

/-- V-B1, V-S1: the fast path, with exactly two reads. -/
theorem test_check_erased :
    after ex (fun t => (t.history, t.top, t.trailerRd, t.appValid))
      = some ([.memRead 0x3FFC 0xFF, .memRead 0x3FFD 0xFF], .erase, 0xFFFF, false) := by decide
/-- The full path: 2 reads and 252. The CRC of 252 bytes 0xFF is 0x0202, by R120. -/
theorem test_is_app_valid :
    ran .isAppValid { small with flash := [(508, 0x02), (509, 0x02)] }
        (fun t => (t.history.length, t.trailerRd, t.result, t.appValid)) = some (254, 0x0202, 0x0202, true) := by
  decide +kernel
/-- As V-B6: a trailer off by one bit. -/
theorem test_is_app_valid_mismatch :
    ran .isAppValid { small with flash := [(508, 0x03), (509, 0x02)] }
        (fun t => (t.history.length, t.trailerRd, t.result, t.appValid)) = some (254, 0x0203, 0x0202, false) := by
  decide +kernel
/-- As V-S2. -/
theorem test_check_valid :
    after { small with flash := [(508, 0x02), (509, 0x02)] } (fun t => (t.history.getLast?, t.top, busy t))
      = some (some .bootApp, .app, false) := by decide +kernel
/-- V-S3, with a list of session-start values that differ before. -/
theorem test_seq_erase :
    after { ex with top := .erase, rxs := .done, offset := 5, cursor := 0x2500, malformed := true, pktTimeout := true,
                    draws := allOk }
        (fun t => decide (t.rxs = .idle ∧ t.offset = 0 ∧ t.cursor = 0x2000 ∧ t.erased = true ∧ t.malformed = false
          ∧ t.pktTimeout = false ∧ t.ok = true ∧ t.top = .receive)) = some true := by decide
/-- V-S4: a failed erase goes on to `RECEIVE`. -/
theorem test_seq_erase_fail :
    after { ex with top := .erase, draws := { allOk with prepare := [.fail] } } (fun t => (t.erased, t.ok, t.top))
      = some (false, false, .receive) := by decide
/-- R215 on the small region, erased: 252 and 128 reads, four requests and `ResetReq`. -/
theorem test_seq_finish :
    after { small with top := .finish, rxs := .done, draws := allOk }
        (fun t => (t.result, t.history.length, t.history.getLast?, t.flash))
      = some (0x0202, 252 + 128 + 5, some .resetReq, [(508, 0x02), (509, 0x02)]) := by decide +kernel
/-- As V-S6: a failed trailer patch requests the restart all the same. -/
theorem test_seq_finish_fail :
    after { small with top := .finish, rxs := .done, draws := { allOk with prepare := [.fail] } }
        (fun t => (t.ok, t.resetReq, t.top)) = some (false, true, .restart) := by decide +kernel
/-- R216, R217. -/
theorem test_waiting_states :
    after { ex with top := .app } (fun t => (t.top, t.history)) = some (.app, [])
    ∧ after { ex with top := .restart } (fun t => (t.top, t.history)) = some (.restart, []) := by decide

/-- V-H9. -/
theorem test_nop : after { exHost .app (wr 0x00 0xFFFFFFF0) with cmdErr := true } (·.cmdErr) = some true := by decide
/-- V-H10, and the highest code. -/
theorem test_reserved :
    after (exHost .app (wr 0x00 7)) (fun t => (t.cmdErr, t.ok, t.history)) = some (true, false, [])
    ∧ after (exHost .app (wr 0x00 0xF)) (·.cmdErr) = some true := by decide
/-- V-H11: the fast path here. -/
theorem test_cmd_check :
    after { exHost .app (wr 0x00 2) with cmdErr := true, appValid := true }
        (fun t => (t.cmdErr, t.appValid, t.trailerRd, t.top)) = some (false, false, 0xFFFF, .app) := by decide
/-- V-H12, V-H13. -/
theorem test_cmd_busy :
    after (exHost .receive (wr 0x00 1)) (fun t => (t.cmdErr, t.history)) = some (true, [])
    ∧ after (exHost .restart (wr 0x00 3)) (fun t => (t.cmdErr, t.history)) = some (true, []) := by decide
/-- R125's example: the bytes `31 .. 39` at `IMG_START`. -/
theorem test_cmd_crc :
    after { exHost .app (wr 0x00 1) with
        arg0 := 0x2000, arg1 := 9,
        flash := [(0x2000, 0x31), (0x2001, 0x32), (0x2002, 0x33), (0x2003, 0x34), (0x2004, 0x35), (0x2005, 0x36),
                  (0x2006, 0x37), (0x2007, 0x38), (0x2008, 0x39)] }
        (fun t => (t.result, t.ok, t.history.length)) = some (0x31C3, true, 9) := by decide
/-- V-H4, V-H5, V-H6, V-H7: the ends of the range, and a sum past 2^32. -/
theorem test_cmd_crc_range :
    after { exHost .app (wr 0x00 1) with arg0 := 0x4000, arg1 := 0, result := 5 } (fun t => (t.result, t.ok)) = some (0, true)
    ∧ after { exHost .app (wr 0x00 1) with arg0 := 0x1000, arg1 := 0x10, result := 5 } (fun t => (t.result, t.ok))
        = some (5, false)
    ∧ after { exHost .app (wr 0x00 1) with arg0 := 0x3FFC, arg1 := 5, result := 5 } (fun t => (t.result, t.ok))
        = some (5, false)
    ∧ after { exHost .app (wr 0x00 1) with arg0 := 0xFFFFFFFF, arg1 := 2, result := 5 } (fun t => (t.result, t.history))
        = some (5, []) := by decide
/-- X4: `ARG0[31:16]` is ignored. -/
theorem test_cmd_trailer :
    after { small with top := .app, turns := [.hostWrite 4096 4 3], arg0 := 0xABCD1234, flash := [(510, 0x77)],
                       draws := allOk }
        (fun t => (t.flash, t.ok, t.top)) = some ([(508, 0x34), (509, 0x12), (510, 0x77)], true, .app) := by decide +kernel
/-- V-H14. -/
theorem test_arg_write :
    after (exHost .receive (wr 0x0C 0x12345678)) (fun t => (t.arg1, t.arg0, hostReadWord t 0x4000000C 4))
      = some (0x12345678, 0, 0x12345678) := by decide
/-- V-H15, and R36: an unaligned or narrow write. -/
theorem test_ignored_writes :
    after (exHost .app (wr 0x04 0xFFFFFFFF)) (fun t => (t.ok, t.cmdErr)) = some (false, false)
    ∧ after (exHost .app (.hostWrite 0x40000009 4 1)) (·.arg0) = some 0
    ∧ after (exHost .app (.hostWrite 0x40000008 2 1)) (·.arg0) = some 0 := by decide
/-- V-H16, V-H17, V-H18. -/
theorem test_reads :
    hostReadWord ex 0x40000000 4 = 0 ∧ hostReadWord ex 0x40000028 4 = 0
    ∧ after (exHost .check (rd 0x04)) (·.hostRd) = some 0x00000001
    ∧ after { exHost .app (rd 0x04) with appValid := true } (·.hostRd) = some 0x00000104 := by decide
/-- The `STATUS` words of programs P1 and P4. -/
theorem test_status :
    statusWord { ex with top := .restart, rxs := .done, ok := true, resetReq := true, erased := true } = 0x000035C3
    ∧ statusWord { ex with top := .restart, rxs := .done, ok := true, resetReq := true, erased := true,
                           malformed := true, pktTimeout := true } = 0x000035DB := by decide

/-- notes/assumptions/17.md: a placed table word is the very next step. -/
theorem test_placed_words :
    after (State.reset.withFetchWord 8 0x43) (·.history) = some [.tx 0x43, .timerStart 1000]
    ∧ after (State.reset.withFetchWord 8 0x06) (·.top) = some .finish
    ∧ after (State.reset.withFetchWord 8 0x15) (·.history) = some [.rx (some 0), .tx 0x15]
    ∧ after (State.reset.withFetchWord 8 0x02) (·.trailerRd) = some 0xFFFF
    ∧ after (State.reset.withFetchWord 8 0x07) (·.cmdErr) = some true := by decide +kernel

/-! ### Witnesses: for each statement with hypotheses, states and operands that meet them -/

theorem step_answers {s : State} (h : (nextOf (step s)).isSome = true) : ∃ t, step s = .next t := by
  cases hs : step s with
  | next t => exact ⟨t, rfl⟩
  | fault r => rw [hs] at h; exact absurd h (by simp [nextOf])
  | refused r => rw [hs] at h; exact absurd h (by simp [nextOf])

/-- The step answers a state of which `p` holds. -/
theorem step_answers_with {s : State} {p : State → Bool} (h : (nextOf (step s)).any p = true) :
    ∃ t, step s = .next t ∧ p t = true := by
  cases hs : step s with
  | next t => rw [hs] at h; exact ⟨t, rfl, h⟩
  | fault r => rw [hs] at h; exact absurd h (by simp [nextOf])
  | refused r => rw [hs] at h; exact absurd h (by simp [nextOf])

theorem witness_DecodeEncodeAgree :
    (Instr.wf (.otherPolling 0xFF) = true ∧ trigger polling (.otherPolling 0xFF) = true
      ∧ encode (.otherPolling 0xFF) = some (.rx 0xFF))
    ∧ (trigger (receiving 1028 .long) (.rxCrcLo 0) = true ∧ encode (.rxCrcLo 0) = some (.rx 0))
    ∧ (Instr.wf (.cmdBusy 0xF) = true ∧ trigger (inTop .check) (.cmdBusy 0xF) = true
      ∧ encode (.cmdBusy 0xF) = some (.write 0 0xF)) := by decide

theorem witness_EncodeDecodeAgree :
    decode (receiving 3 .short) (.rx 1) = .ok (.rxPayload 1)
    ∧ decode (inTop .app) (.write 0 0xFFFFFFFF) = .ok (.cmdReserved8F 7) := by decide

theorem witness_DecodeMapOfReceivedByte :
    ((inTop .receive).top = .receive ∧ (inTop .receive).rxs = .idle)
    ∧ (polling.top = .receive ∧ polling.rxs = .polling)
    ∧ ((receiving 0 .short).rxs = .receiving ∧ (receiving 0 .short).offset.toNat = 0)
    ∧ ((receiving 3 .short).offset.toNat ≤ 128 + 2 ∧ (receiving 130 .short).offset.toNat = 128 + 2)
    ∧ ((receiving 131 .short).offset.toNat = 128 + 3 ∧ (receiving 132 .short).offset.toNat = 128 + 4)
    ∧ 128 + 4 < (receiving 133 .short).offset.toNat
    ∧ ((receiving 1026 .long).offset.toNat = 1024 + 2 ∧ (receiving 1027 .long).offset.toNat = 1024 + 3)
    ∧ ((receiving 1028 .long).offset.toNat = 1024 + 4 ∧ 1024 + 4 < (receiving 1029 .long).offset.toNat) := by decide

theorem witness_CoreTurnRunsTheRowOfTop (top : Top) :
    (admitted { small with top := top }.cfg = true ∧ { small with top := top }.turns = [])
    ∧ { small with top := top, turns := [.core] }.turns = .core :: [] := by
  refine ⟨⟨?_, rfl⟩, rfl⟩
  exact test_small_admitted.1

theorem witness_HostWriteRunsTheDecodedInstruction :
    admitted small.cfg = true
    ∧ { small with turns := [.hostWrite (tiny.regBase + 0) 4 1] }.turns = .hostWrite (small.cfg.regBase + 0) 4 1 :: []
    ∧ decode (ctxOf small) (.write 0 1) = .ok (.cmdBusy 1)
    ∧ (0x3C < 64 ∧ 0x3C % 4 = 0) ∧ decode (ctxOf small) (.write 0x3C 1) = .error .ignoredWrite := by decide

/-- R271, V-P20: power lost in CMD_TRAILER, at its second prepare: the trailer's unit is all 0xFF. Lost in the poll step, it
changes no flash byte. -/
theorem test_power_loss :
    after { small with top := .app, flash := [(300, 1), (400, 2)], turns := [.powerLoss (.hostWrite 4096 4 3)],
                       draws := { allOk with prepare := [.ok, .fail] } } (fun t => (t.top, t.flash)) = some (.check, [(300, 1)])
    ∧ after { small with top := .receive, flash := [(300, 1)], turns := [.powerLoss .core] }
        (fun t => (t.top, t.history, t.flash)) = some (.check, [], [(300, 1)]) := by decide +kernel

/-- R184: the places left open where an advance ends at 2^32 are write pages of the region, whatever the free value. -/
theorem test_cursor_place :
    cursorPlace tiny 4294966272 0 = 4294966272 ∧ cursorPlace tiny 4294966272 7 = 4294967168
    ∧ cursorPlace tiny 4294966272 8 = 4294966272 := by decide +kernel

theorem witness_ReceiverStepRunsTheDecodedRow :
    ((exReceive .polling 0 .short [some 4] []).top = .receive ∧ (rxSample (exReceive .polling 0 .short [some 4] [])).1 = some 4
      ∧ decode (ctxOf (exReceive .polling 0 .short [some 4] [])) (.rx 4) = .ok (.otherPolling 4))
    ∧ (rxSample (exReceive .receiving 132 .short [none] [])).1 = none
    ∧ ((rxSample (exReceive .receiving 133 .short [some 4] [])).1 = some 4
      ∧ decode (ctxOf (exReceive .receiving 133 .short [some 4] [])) (.rx 4) = .error .offsetOutOfPacket)
    ∧ (exReceive .receiving 132 .short [] []).offset.toNat ≤ pktLen .short + 4 := by decide

theorem witness_OtherHostAccessesHaveNoEffect :
    admitted small.cfg = true
    ∧ { small with turns := [.hostRead (4096 + 64) 4] }.turns = .hostRead (4096 + 64) 4 :: []
    ∧ small.cfg.regBase + 64 ≤ 4096 + 64 ∧ 4095 < small.cfg.regBase
    ∧ (4096 + 0x3E - small.cfg.regBase) % 4 ≠ 0
    ∧ { small with turns := [.hostWrite 4096 2 1] }.turns = .hostWrite 4096 2 1 :: [] := by decide

theorem witness_RegisterWindowReads : (0x28 ≤ 0x28 ∧ 0x28 < 0x40 ∧ 0x28 % 4 = 0) ∧ (0x28 ≤ 0x3C ∧ 0x3C < 0x40 ∧ 0x3C % 4 = 0) := by
  decide

theorem witness_AdmittedMeansTheConstraints : tiles 0 Config.ex.sectors = true ∧ tiles 0 tiny.sectors = true := by decide

theorem witness_UnmodelledRunsAreRefused :
    admitted { tiny with writePage := 100 } = false
    ∧ (admitted small.cfg = true ∧ { small with turns := [.hostFlash 300 1] }.turns = .hostFlash 300 1 :: []
      ∧ small.top ≠ .app ∧ { small with top := .app }.top = .app ∧ (300#32).toNat ∉ small.stuck) := by decide

theorem witness_ResetLeavesTheSpecValues :
    (admitted small.cfg = true ∧ { small with top := .restart, turns := [.reset] }.turns = .reset :: [])
    ∧ ({ small with top := .erase, turns := [.powerLoss .core] }.turns = .powerLoss .core :: []
      ∧ (after { small with top := .erase, turns := [turnOf .core], draws := allOk } (·.turns)) = some [])
    ∧ (after { small with top := .app, turns := [turnOf (.hostWrite 4096 4 3)], draws := allOk } (·.turns)) = some []
    ∧ (255 < Config.addrSpace ∧ 255 < small.cfg.imgStart ∧ small.cfg.imgEnd ≤ 512) := by decide +kernel

theorem witness_PayloadByteIsStored :
    (3 ≤ (exReceive .receiving 3 .short [] []).offset.toNat
      ∧ (exReceive .receiving 130 .short [] []).offset.toNat = pktLen (exReceive .receiving 130 .short [] []).size + 2)
    ∧ ((exReceive .receiving 2 .short [] []).offset.toNat < 3
      ∧ pktLen (exReceive .receiving 131 .short [] []).size + 2 < (exReceive .receiving 131 .short [] []).offset.toNat) := by
  decide

/-- Both clauses of the CRC, and both answers of PROGRAM: V-R18, V-R19, V-R20 on a packet of zeros. -/
theorem witness_LastByteVerifiesAndReplies :
    after (exReceive .receiving 132 .short [some 1] []) (·.history.getLast?) = some (some (.tx 0x15))
    ∧ ran (.program .short) { ex with erased := true, draws := allOk } (·.ret) = some (.answer .ok)
    ∧ ran (.program .short) { ex with erased := true, draws := { allOk with write := [.fail], bytes := List.replicate 256 7 } }
        (fun t => (t.ret, t.flash.read 0x2000)) = some (.answer .fail, 7)
    ∧ crcOf (ex.pktbuf.toList.take (pktLen .short)) = 0x0000 := by decide +kernel

theorem witness_RepliesOnlyToPacketsAndEot :
    decode (ctxOf (exReceive .receiving 132 .short [] [])) (.rx 1) = .ok (.rxCrcLo 1)
    ∧ ran (.rxCrcLo 1) (exReceive .receiving 132 .short [] []) (·.offset) = some 0
    ∧ decode (ctxOf (exReceive .receiving 0 .short [] [])) (.rx 4) = .ok .eotReceiving
    ∧ decode (ctxOf (exReceive .receiving 0 .short [] [])) (.rx 5) = .ok (.otherReceiving 5) := by decide +kernel

theorem witness_CommandDispatch :
    admitted small.cfg = true
    ∧ { small with turns := [.hostWrite 4096 4 1] }.turns = .hostWrite small.cfg.regBase 4 1 :: []
    ∧ small.top ≠ .app ∧ { small with top := .app }.top = .app
    ∧ BitVec.extractLsb' 0 4 (0xFFFFFFF0 : Word) = 0x0 ∧ (0x4 : BitVec 4) ≤ BitVec.extractLsb' 0 4 (0x4 : Word)
    ∧ (0x4 : BitVec 4) ≤ BitVec.extractLsb' 0 4 (0xF : Word) ∧ BitVec.extractLsb' 0 4 (0x11 : Word) = 0x1
    ∧ BitVec.extractLsb' 0 4 (0x2 : Word) = 0x2 ∧ BitVec.extractLsb' 0 4 (0x3 : Word) = 0x3 := by decide

theorem witness_ArgumentWritesReadBack :
    admitted small.cfg = true
    ∧ { small with turns := [.hostWrite 4104 4 7] }.turns = .hostWrite (small.cfg.regBase + 0x08) 4 7 :: []
    ∧ { small with turns := [.hostWrite 4108 4 7] }.turns = .hostWrite (small.cfg.regBase + 0x0C) 4 7 :: [] := by decide

theorem witness_CmdCrcComputesOverTheRange :
    { small with top := .app }.top = .app
    ∧ { small with arg0 := 255 }.arg0.toNat < small.cfg.imgStart
    ∧ small.cfg.imgEnd < { small with arg0 := 511 }.arg0.toNat + { small with arg1 := 2 }.arg1.toNat
    ∧ (small.cfg.imgStart ≤ { small with arg0 := 512 }.arg0.toNat
      ∧ { small with arg0 := 512 }.arg0.toNat + { small with arg1 := 0 }.arg1.toNat ≤ small.cfg.imgEnd) := by decide

theorem witness_CmdCheckRunsTheComparator : { small with top := .app }.top = .app := rfl
theorem witness_CmdTrailerPatchesWithArg0 : { small with top := .app, arg0 := 0xABCD1234 }.top = .app := rfl

theorem witness_SingleBitChangesAreDetected :
    0 < [0x31#8, 0x32#8].length ∧ 1 < [0x31#8, 0x32#8].length ∧ 7 < 8 ∧ 0 < 8 := by decide

theorem witness_PrepareAndCompareContracts :
    1024 ≤ (bufBytes .pktbuf small).length ∧ 128 ≤ (bufBytes .scratch small).length
    ∧ (flashCompare 256 .pktbuf 4 { small with flash := [(256, 0), (257, 0), (258, 0), (259, 0)] }).1 = true
    ∧ (flashCompare 256 .pktbuf 4 small).1 = false := by decide +kernel

theorem witness_EraseContract :
    (small.stuck = [] ∧ tiles 0 small.cfg.sectors = true)
    ∧ (flashErase 1 2 { small with draws := allOk }).1 = .ok
    ∧ (flashErase 1 2 { small with draws := { allOk with erase := [.fail] } }).1 = .fail
    ∧ (1 ≤ sectorOf small.cfg 511 ∧ sectorOf small.cfg 511 ≤ 2) ∧ ¬ (1 ≤ sectorOf small.cfg 255)
    ∧ ¬ (sectorOf small.cfg 512 ≤ 2) := by decide +kernel

theorem witness_WriteContract :
    (small.stuck = [] ∧ 1024 ≤ (bufBytes .pktbuf small).length)
    ∧ (flashWrite 256 .pktbuf 128 { small with draws := allOk }).1 = .ok
    ∧ (flashWrite 256 .pktbuf 128 { small with draws := { allOk with write := [.fail] } }).1 = .fail := by decide +kernel

/-- A state in `RECEIVING` whose timer has been seen expired, and one whose timer expires at the next call. -/
theorem witness_ExpiredTimerStaysExpired :
    (exReceive .receiving 0 .short [none] [true]).timer ≠ .expired 1000
    ∧ (timerExpired { exReceive .receiving 0 .short [] [true] with timer := .running 1000 }).1 = true
    ∧ { ex with timer := .expired 1000 }.timer = .expired 1000
    ∧ (nextOf (step { exReceive .receiving 0 .short [some 1] [] with timer := .expired 1000 })).map (·.timer)
        = some (.running 1000)
    ∧ { exReceive .receiving 0 .short [some 1] [] with timer := .expired 1000 }.turns.head?.any isReset = false := by decide

theorem witness_SessionEraseOutcomes :
    (flashPrepare 1 2 { small with draws := { allOk with prepare := [.fail] } }).1 = .fail
    ∧ ((flashPrepare 1 2 { small with draws := { allOk with erase := [.fail] } }).1 = .ok
      ∧ (flashErase 1 2 (flashPrepare 1 2 { small with draws := { allOk with erase := [.fail] } }).2).1 = .fail)
    ∧ ((flashPrepare 1 2 { small with draws := allOk }).1 = .ok
      ∧ (flashErase 1 2 (flashPrepare 1 2 { small with draws := allOk }).2).1 = .ok)
    ∧ (admitted small.cfg = true ∧ small.stuck = [] ∧ sectorFirst small.cfg = 1 ∧ sectorLast small.cfg = 2) := by
  decide +kernel

theorem witness_ProgramPastTheRegionFails :
    small.cfg.imgEnd < { small with cursor := 385 }.cursor.toNat + max (pktLen .short) small.cfg.writePage := by decide

theorem witness_ProgramWritesAndAdvances :
    admitted small.cfg = true ∧ small.stuck = [] ∧ { small with erased := true }.erased = true
    ∧ { small with cursor := 384 }.cursor.toNat + max (pktLen .short) small.cfg.writePage ≤ small.cfg.imgEnd
    ∧ (flashPrepare 1 2 { small with erased := true, cursor := 384, draws := allOk }).1 = .ok
    ∧ (flashWrite 384 .pktbuf 128 (flashPrepare 1 2 { small with erased := true, cursor := 384, draws := allOk }).2).1 = .ok
    ∧ { small with cursor := 384 }.cursor.toNat + max (pktLen .short) small.cfg.writePage < Config.addrSpace := by
  decide +kernel

theorem witness_ProgramFrame :
    { small with erased := true }.erased = true ∧ admitted small.cfg = true ∧ small.cfg.imgStart ≤ small.cursor.toNat
    ∧ (255 < Config.addrSpace ∧ 255 < small.cfg.imgStart ∧ small.cfg.imgEnd ≤ 512) := by decide

theorem witness_ProgramErasesWhereOwed :
    small.erased = false ∧ small.cursor.toNat + max (pktLen .short) small.cfg.writePage ≤ small.cfg.imgEnd
    ∧ ran .sessionErase { small with draws := allOk } (·.ret) = some (.answer .ok)
    ∧ ran .sessionErase { small with draws := { allOk with prepare := [.fail] } } (·.ret) = some (.answer .fail) := by
  decide +kernel

theorem witness_TrailerPatchRequests :
    admitted small.cfg = true ∧ ran (.writeTrailer 0x1234) { small with draws := allOk } (·.ret) = some (.answer .ok) := by
  decide +kernel

theorem witness_TrailerPatchPreservesTheRest :
    admitted small.cfg = true ∧ small.stuck = []
    ∧ ran (.writeTrailer 0xFFFF) { small with flash := [(300, 1), (508, 2)], draws := allOk } (fun t => (t.ret, t.flash))
      = some (.answer .ok, [(300, 1)]) := by decide +kernel

/-- The two failures the statement tells apart by their events. -/
theorem witness_TrailerPatchFailures :
    ran (.writeTrailer 0x1234) { small with draws := { allOk with prepare := [.fail] } }
        (fun t => t.history.drop 128) = some [.flashPrepare 2 2 .fail]
    ∧ ran (.writeTrailer 0x1234) { small with draws := { allOk with prepare := [.ok, .fail] } }
        (fun t => t.history.drop 128) = some [.flashPrepare 2 2 .ok, .flashErase 2 2 .ok, .flashPrepare 2 2 .fail] := by
  decide +kernel

theorem witness_ComparatorDecidesByTheTrailer :
    trailerOf small = 0xFFFF ∧ trailerOf { small with flash := [(508, 0x02)] } ≠ 0xFFFF := by decide

theorem witness_CheckStepDecides :
    ran .isAppValid small (·.appValid) = some false
    ∧ ran .isAppValid { small with flash := [(508, 0x02), (509, 0x02)] } (·.appValid) = some true := by decide +kernel

/-- 250 bytes 0xFF and `17 DB` have the CRC 0xFFFF, by R120. -/
theorem witness_ChecksumAllOnesNeverBoots :
    imageCrc { small with flash := [(506, 0x17), (507, 0xDB)] } = 0xFFFF := by decide +kernel

theorem witness_TopFollowsTheBootOrder : NoResetTurn small ∧ ∃ t, step small = .next t :=
  ⟨by unfold NoResetTurn; decide, step_answers (by decide +kernel)⟩

theorem small_inv : Inv small :=
  ⟨test_small_admitted.1, ⟨List.Pairwise.nil, fun _ h => absurd h List.not_mem_nil⟩, by decide, rfl, rfl, by unfold CursorInv; decide⟩

theorem witness_EveryStepKeepsTheInvariant : Inv small ∧ ∃ t, step small = .next t :=
  ⟨small_inv, step_answers (by decide +kernel)⟩

/-- The invariant holds with any turn next, so also where the step is refused. -/
theorem witness_EveryStepCompletes :
    Inv small ∧ Inv { small with turns := [.hostFlash 300 1] } ∧ small.top ≠ .app :=
  ⟨small_inv, small_inv, by decide⟩

theorem witness_RequestsStayInTheRegion : Inv small ∧ NoResetTurn small ∧ ∃ t, step small = .next t :=
  ⟨small_inv, witness_TopFollowsTheBootOrder⟩

theorem witness_AtMostOneByteIsSentPerStep : NoResetTurn small ∧ ∃ t, step small = .next t := witness_TopFollowsTheBootOrder

/-- A state whose next step takes the last byte of a good short packet of zeros. -/
def lastByte : State :=
  { small with top := .receive, rxs := .receiving, offset := 132, erased := true, draws := { allOk with rx := [some 0] } }

theorem witness_CursorOnlyAdvancesOnAMatch :
    Inv lastByte ∧ NoResetTurn lastByte ∧ lastByte.top ≠ .erase
    ∧ ∃ t, step lastByte = .next t ∧ decide (t.cursor ≠ lastByte.cursor) = true :=
  ⟨⟨test_small_admitted.1, ⟨List.Pairwise.nil, fun _ h => absurd h List.not_mem_nil⟩, by decide,
      fun h => Rxs.noConfusion h, by unfold OffsetInv; decide, by unfold CursorInv; decide⟩,
    by unfold NoResetTurn; decide, by decide,
    step_answers_with (p := fun t => decide (t.cursor ≠ lastByte.cursor)) (by decide +kernel)⟩

theorem witness_OnlyAValidImageBoots :
    ∃ t, step { small with flash := [(508, 0x02), (509, 0x02)] } = .next t
      ∧ (decide (t.top = .app) && t.appValid) = true :=
  step_answers_with (p := fun t => decide (t.top = .app) && t.appValid) (by decide +kernel)

/-- The small region at FINISH, with the reset and the CHECK step to come; its trailer patch succeeds. -/
def atFinish : State :=
  { small with top := .finish, rxs := .done, turns := [.core, .reset, .core], draws := allOk }

theorem witness_FinishedImageBootsAfterReset :
    admitted atFinish.cfg = true ∧ atFinish.stuck = [] ∧ atFinish.top = .finish
    ∧ atFinish.turns = .core :: .reset :: .core :: [] ∧ imageCrc atFinish ≠ 0xFFFF
    ∧ after atFinish (·.ok) = some true := by decide +kernel

theorem witness_RecordedFlagsChangeNothing : ∀ a w, small.turns.head? ≠ some (.hostRead a w) :=
  fun _ _ => by simp [small, ex, State.reset]

end Sys2Proof.Tests
end

section
/-!
PROOF. The obligations of spec/00_scope.md: what the model admits (R11), and the runs it refuses (R11, R80, R268).
-/

namespace Sys2Proof.Machine

/-! ### R11: the check piece by piece, and the constraints in the words of every address -/

theorem inSectors_eq_true {c : Config} {s0 s1 a : Nat} :
    inSectors c s0 s1 a = true ↔ s0 ≤ sectorOf c a ∧ sectorOf c a ≤ s1 := by
  simp [inSectors]

theorem inSectors_self {c : Config} {n a : Nat} : inSectors c n n a = true ↔ sectorOf c a = n := by
  rw [inSectors_eq_true]
  omega

/-- The bytes of a piece are all in the sectors `s0 .. s1` or all out of them, so the first and the last one, or one
common to the piece and the range, decide the check of the piece. -/
theorem piecesAreExactly_iff {c : Config} {s0 s1 lo hi : Nat} (ht : tiles 0 c.sectors = true) (hlt : lo < hi) :
    piecesAreExactly c s0 s1 lo hi = true
      ↔ ∀ a, a < Config.addrSpace → (inSectors c s0 s1 a = true ↔ lo ≤ a ∧ a < hi) := by
  refine ⟨fun hp a ha => inSectors_iff ht hp ha, fun h => List.all_eq_true.mpr fun p hp => ?_⟩
  obtain ⟨-, hsize, hend⟩ := tiles_bounds ht hp
  have hbyte : ∀ a, p.base ≤ a → a < p.base + p.size →
      (s0 ≤ p.number ∧ p.number ≤ s1 ↔ lo ≤ a ∧ a < hi) := fun a h1 h2 => by
    rw [← h a (by omega), inSectors_eq_true, sectorOf_of_mem ht hp h1 h2]
  split
  case isTrue hin =>
    have hfirst := (hbyte p.base (by omega) (by omega)).mp hin
    have hlast := (hbyte (p.base + p.size - 1) (by omega) (by omega)).mp hin
    simp only [Bool.and_eq_true, decide_eq_true_eq]
    omega
  case isFalse hout =>
    simp only [Bool.or_eq_true, decide_eq_true_eq]
    by_contra hmeet
    exact hout ((hbyte (max p.base lo) (by omega) (by omega)).mpr (by omega))

/-- R11 constraint 6: the trailer's sector is exactly the last `TRAILER_UNIT` bytes of the region. -/
theorem trailerPieces_iff {c : Config} (ht : tiles 0 c.sectors = true) (hlt : c.imgStart < c.imgEnd)
    (hu : 4 ≤ c.trailerUnit) :
    piecesAreExactly c (trailerSector c) (trailerSector c) (trailerBase c) c.imgEnd = true
      ↔ ∀ a, a < Config.addrSpace →
        (sectorOf c a = trailerSector c ↔ c.imgEnd - c.trailerUnit ≤ a ∧ a < c.imgEnd) := by
  have hbase : trailerBase c < c.imgEnd := by
    unfold trailerBase
    omega
  rw [piecesAreExactly_iff ht hbase]
  simp only [inSectors_self, trailerBase]

/-- R11 constraint 7: the sectors `SECTOR_FIRST .. SECTOR_LAST` are exactly the region. -/
theorem imagePieces_iff {c : Config} (ht : tiles 0 c.sectors = true) (hlt : c.imgStart < c.imgEnd) :
    piecesAreExactly c (sectorFirst c) (sectorLast c) c.imgStart c.imgEnd = true
      ↔ ∀ a, a < Config.addrSpace →
        (sectorFirst c ≤ sectorOf c a ∧ sectorOf c a ≤ sectorLast c ↔ c.imgStart ≤ a ∧ a < c.imgEnd) := by
  rw [piecesAreExactly_iff ht hlt]
  simp only [inSectors_eq_true]

theorem mem_regionPieces {c : Config} {p : Sector} :
    p ∈ regionPieces c ↔ p ∈ c.sectors ∧ p.base < c.imgEnd ∧ c.imgStart < p.base + p.size := by
  simp [regionPieces]

/-- R10: the pieces of a tiling map stand in the order of their addresses. -/
theorem tiles_pairwise {at' : Nat} {ps : List Sector} (h : tiles at' ps = true) :
    ps.Pairwise fun p q => p.base + p.size ≤ q.base := by
  induction ps generalizing at' with
  | nil => exact .nil
  | cons p ps ih =>
    simp only [tiles, Bool.and_eq_true] at h
    exact .cons (fun q hq => (tiles_bounds h.2 hq).1) (ih h.2)

theorem regionPieces_pairwise {c : Config} (ht : tiles 0 c.sectors = true) :
    (regionPieces c).Pairwise fun p q => p.base + p.size ≤ q.base :=
  (tiles_pairwise ht).filter _

/-- Where the numbers do not fall along the list, a piece that starts before the end of another has no greater number. -/
theorem regionPieces_number_le {c : Config} (ht : tiles 0 c.sectors = true)
    (hn : (regionPieces c).Pairwise fun p q => p.number ≤ q.number) {p q : Sector}
    (hp : p ∈ regionPieces c) (hq : q ∈ regionPieces c) (h : p.base < q.base + q.size) : p.number ≤ q.number := by
  obtain ⟨i, hi, rfl⟩ := List.mem_iff_getElem.mp hp
  obtain ⟨j, hj, rfl⟩ := List.mem_iff_getElem.mp hq
  rcases Nat.lt_trichotomy i j with hij | rfl | hji
  · exact List.pairwise_iff_getElem.mp hn i j hi hj hij
  · exact Nat.le_refl _
  · have := List.pairwise_iff_getElem.mp (regionPieces_pairwise ht) j i hj hi hji
    omega

/-- R11 constraint 8: the numbers of the pieces do not fall along the region exactly when those of its addresses do not. -/
theorem regionPieces_sorted_iff {c : Config} (ht : tiles 0 c.sectors = true) (he : c.imgEnd ≤ Config.addrSpace) :
    (regionPieces c).Pairwise (fun p q => p.number ≤ q.number)
      ↔ ∀ a b, c.imgStart ≤ a → a ≤ b → b < c.imgEnd → sectorOf c a ≤ sectorOf c b := by
  constructor
  · intro hn a b ha hab hb
    obtain ⟨p, hp, hp1, hp2, hpa⟩ := sectorOf_piece ht (a := a) (by omega)
    obtain ⟨q, hq, hq1, hq2, hqb⟩ := sectorOf_piece ht (a := b) (by omega)
    rw [hpa, hqb]
    exact regionPieces_number_le ht hn (mem_regionPieces.mpr ⟨hp, by omega, by omega⟩)
      (mem_regionPieces.mpr ⟨hq, by omega, by omega⟩) (by omega)
  · intro hmono
    refine (regionPieces_pairwise ht).imp_of_mem fun {p q} hp hq hpq => ?_
    obtain ⟨hp, hp1, hp2⟩ := mem_regionPieces.mp hp
    obtain ⟨hq, hq1, hq2⟩ := mem_regionPieces.mp hq
    obtain ⟨-, hps, -⟩ := tiles_bounds ht hp
    obtain ⟨-, hqs, -⟩ := tiles_bounds ht hq
    have := hmono (max p.base c.imgStart) q.base (by omega) (by omega) hq1
    rwa [sectorOf_of_mem ht hp (by omega) (by omega), sectorOf_of_mem ht hq (by omega) (by omega)] at this

/-- Settles O10: constraints 1 to 5 stand in the check as they are; 6, 7 and 8 are `trailerPieces_iff`,
`imagePieces_iff` and `regionPieces_sorted_iff`. -/
theorem admittedMeansTheConstraints : Obligations.AdmittedMeansTheConstraints := by
  unfold Obligations.AdmittedMeansTheConstraints
  intro c ht
  rw [admitted_iff]
  simp only [List.mem_cons, List.not_mem_nil, or_false]
  constructor
  · rintro ⟨h1, h2, h3, hlt, he, hu, hu', h6, h7, h8, -⟩
    exact ⟨h1, h2, h3, ⟨hlt, he⟩, ⟨hu, hu'⟩, (trailerPieces_iff ht hlt hu).mp h6, (imagePieces_iff ht hlt).mp h7,
      (regionPieces_sorted_iff ht he).mp h8⟩
  · rintro ⟨h1, h2, h3, ⟨hlt, he⟩, ⟨hu, hu'⟩, h6, h7, h8⟩
    exact ⟨h1, h2, h3, hlt, he, hu, hu', (trailerPieces_iff ht hlt hu).mpr h6, (imagePieces_iff ht hlt).mpr h7,
      (regionPieces_sorted_iff ht he).mpr h8, ht⟩

/-! ### R11, R80, R268: the runs that are refused -/

theorem step_of_not_admitted {s : State} (h : admitted s.cfg = false) : step s = .refused .configNotAdmitted := by
  simp [step, h]

/-- R80, U25: a turn in which another agent changes a byte of flash. -/
theorem step_hostFlash {s : State} {a : Word} {b : Byte} {rest : List Turn} (ha : admitted s.cfg = true)
    (ht : s.turns = .hostFlash a b :: rest) :
    step s = if s.top = .app then .next { s with turns := rest, flash := s.flash.patch s.stuck a.toNat [b] }
      else .refused .foreignFlashChange := by
  by_cases htop : s.top = .app
  · simp only [step, ha, if_true, fetch, ht, takeTurn, hostFlashTurn, htop]
  · simp only [step, ha, if_true, fetch, ht, takeTurn, hostFlashTurn, htop, if_false]

theorem Memory.read_patch_singleton (m : Memory) (stuck : List Nat) (lo : Nat) (b : Byte) (x : Nat) :
    (m.patch stuck lo [b]).read x = if x = lo ∧ x ∉ stuck then b else m.read x := by
  rw [Memory.read_patch]
  by_cases hx : x = lo
  · subst hx; simp
  · rw [if_neg (by simp; omega), if_neg (by simp [hx])]

/-- Settles O11: `step` turns down a configuration before it takes a turn; the change of one byte is `step_hostFlash`,
and what it leaves in flash is `Memory.read_patch_singleton`. -/
theorem unmodelledRunsAreRefused : Obligations.UnmodelledRunsAreRefused := by
  unfold Obligations.UnmodelledRunsAreRefused
  refine ⟨fun s => step_of_not_admitted, fun s a b rest ha ht => ⟨fun htop => ?_, fun htop => ?_⟩⟩
  · rw [step_hostFlash ha ht, if_neg htop]
  · refine ⟨s.flash.patch s.stuck a.toNat [b], by rw [step_hostFlash ha ht, if_pos htop], fun hs => ?_, fun x hx => ?_⟩
    · rw [Memory.read_patch_singleton, if_pos ⟨rfl, hs⟩]
    · rw [Memory.read_patch_singleton, if_neg fun h => hx h.1]

end Sys2Proof.Machine
end

section
/-!
PROOF. The receiver step as the row its sample decodes to (spec/30_encoding.md R97, spec/41_receiver.md R140): what SEQ_RECEIVE
does is said once here, so that a proof over every instruction meets each row once.
-/

namespace Sys2Proof.Machine

/-- R140: the state in which a receiver step runs its row: a sample has been taken in `POLLING` and `RECEIVING` only. -/
def sampled (s : State) : State :=
  match s.rxs with
  | .idle | .done => s
  | .polling | .receiving => (sampleLine s).2

/-- R97, R140: the row a receiver step decoded, run; what decodes to no row faults (notes/assumptions/10.md). -/
def runReceiverRow (row : Except Reject Instr) (s : State) : Host.Outcome State Fault Refusal :=
  match row with
  | .ok i => exec i s
  | .error _ => .fault .offsetOutOfPacket

theorem pollingStep_eq (x : Sample) (s : State) : pollingStep x s = exec (decodePolling x) s := by
  cases x with
  | byte b => simp only [pollingStep, decodePolling]; split_ifs <;> rfl
  | expired => rfl
  | quiet => rfl

theorem leadingByte_eq (b : Byte) (s : State) : leadingByte b s = exec (decodeLeading b) s := by
  unfold leadingByte decodeLeading
  split_ifs <;> rfl

theorem receivedByte_eq (b : Byte) (s : State) :
    receivedByte b s = runReceiverRow (decodePosition s.offset s.size b) s := by
  unfold receivedByte decodePosition
  rw [leadingByte_eq]
  split_ifs <;> rfl

theorem receivingStep_eq (x : Sample) (s : State) :
    receivingStep x s = runReceiverRow (decodeReceiving s.offset s.size x) s := by
  cases x with
  | byte b => exact receivedByte_eq b s
  | expired => rfl
  | quiet => rfl

/-- R140: the receiver step runs the row its sample decodes to. -/
theorem execSeqReceive_eq (s : State) :
    execSeqReceive s = runReceiverRow (decodeReceiver (ctxOf s) (sampleLine s).1) (sampled s) := by
  cases h : s.rxs with
  | idle => simp only [execSeqReceive, decodeReceiver, ctxOf, sampled, h]; rfl
  | polling => simp only [execSeqReceive, decodeReceiver, ctxOf, sampled, h, pollingStep_eq]; rfl
  | receiving => simp only [execSeqReceive, decodeReceiver, ctxOf, sampled, h, receivingStep_eq, sampleLine_fields]
  | done => simp only [execSeqReceive, decodeReceiver, ctxOf, sampled, h]; rfl

/-- R140 to R156: the rows of the receiver. -/
def isReceiverRow : Instr → Bool
  | .rxIdlePoll | .sohPolling | .stxPolling | .otherPolling _ | .rxPollingTimeout | .rxPollingNothing
  | .sohReceiving | .stxReceiving | .eotReceiving | .otherReceiving _ | .rxIndex _ | .rxIndexInv _ | .rxPayload _
  | .rxCrcHi _ | .rxCrcLo _ | .rxPacketTimeout | .rxReceivingNothing | .rxDone => true
  | _ => false

/-- No receiver row is the receiver step itself. -/
theorem ne_seqReceive_of_isReceiverRow {i : Instr} (h : isReceiverRow i = true) : i ≠ .seqReceive := by
  rintro rfl
  cases h

theorem isReceiverRow_decodePolling (x : Sample) : isReceiverRow (decodePolling x) = true := by
  cases x with
  | byte b => simp only [decodePolling]; split_ifs <;> rfl
  | expired => rfl
  | quiet => rfl

theorem isReceiverRow_decodeLeading (b : Byte) : isReceiverRow (decodeLeading b) = true := by
  unfold decodeLeading
  split_ifs <;> rfl

theorem isReceiverRow_of_decodeReceiving {offset : BitVec 11} {size : SizeClass} {x : Sample} {i : Instr}
    (h : decodeReceiving offset size x = .ok i) : isReceiverRow i = true := by
  cases x with
  | byte b =>
    simp only [decodeReceiving, decodePosition] at h
    split_ifs at h <;> cases h
    case pos => exact isReceiverRow_decodeLeading b
    all_goals rfl
  | expired => cases h; rfl
  | quiet => cases h; rfl

theorem isReceiverRow_of_decodeReceiver {c : Ctx} {x : Sample} {i : Instr} (h : decodeReceiver c x = .ok i) :
    isReceiverRow i = true := by
  unfold decodeReceiver at h
  split at h
  case h_1 => cases h; rfl
  case h_2 => cases h; exact isReceiverRow_decodePolling x
  case h_3 => exact isReceiverRow_of_decodeReceiving h
  case h_4 => cases h; rfl

/-- R140: a receiver step that answers a next state has run a receiver row. -/
theorem execSeqReceive_next {s t : State} (h : exec .seqReceive s = .next t) :
    ∃ i, isReceiverRow i = true ∧ exec i (sampled s) = .next t := by
  change execSeqReceive s = .next t at h
  rw [execSeqReceive_eq] at h
  cases hd : decodeReceiver (ctxOf s) (sampleLine s).1 with
  | ok i => exact ⟨i, isReceiverRow_of_decodeReceiver hd, by rw [hd] at h; exact h⟩
  | error r => rw [hd] at h; cases h

end Sys2Proof.Machine
end

section
/-!
PROOF. What is only recorded (spec/10_state.md R26, R32: `PKTNUM`, `PKTNUM_INV`, `MALFORMED`, `PKT_TIMEOUT`) changes nothing else.
Every operation commutes with `forgetRecorded`, but for the four rows that record; those differ in what is forgotten only.
-/

namespace Sys2Proof.Machine

/-- An operation's result with the recorded elements of its state forgotten. -/
def forgetIn {α : Type} (r : α × State) : α × State := (r.1, forgetRecorded r.2)

/-- A step's outcome with the recorded elements of its next state forgotten. -/
def forgetOutcome (o : Host.Outcome State Fault Refusal) : Host.Outcome State Fault Refusal :=
  match o with
  | .next t => .next (forgetRecorded t)
  | .fault r => .fault r
  | .refused r => .refused r

/-- What a step has to do, with the recorded elements of its state forgotten. -/
def forgetFetched (f : Fetched) : Fetched :=
  match f with
  | .run i s => .run i (forgetRecorded s)
  | .cut i s => .cut i (forgetRecorded s)
  | .quiet s => .quiet (forgetRecorded s)
  | .refuse r => .refuse r

@[simp] theorem forgetRecorded_fields (s : State) :
    (forgetRecorded s).top = s.top ∧ (forgetRecorded s).rxs = s.rxs ∧ (forgetRecorded s).offset = s.offset ∧
    (forgetRecorded s).size = s.size ∧ (forgetRecorded s).rxcrc = s.rxcrc ∧ (forgetRecorded s).cursor = s.cursor ∧
    (forgetRecorded s).erased = s.erased ∧ (forgetRecorded s).result = s.result ∧
    (forgetRecorded s).trailerRd = s.trailerRd ∧ (forgetRecorded s).arg0 = s.arg0 ∧ (forgetRecorded s).arg1 = s.arg1 ∧
    (forgetRecorded s).ok = s.ok ∧ (forgetRecorded s).appValid = s.appValid ∧ (forgetRecorded s).cmdErr = s.cmdErr ∧
    (forgetRecorded s).resetReq = s.resetReq ∧ (forgetRecorded s).pktbuf = s.pktbuf ∧
    (forgetRecorded s).scratch = s.scratch ∧ (forgetRecorded s).cfg = s.cfg ∧ (forgetRecorded s).flash = s.flash ∧
    (forgetRecorded s).stuck = s.stuck ∧ (forgetRecorded s).timer = s.timer ∧ (forgetRecorded s).history = s.history ∧
    (forgetRecorded s).draws = s.draws ∧ (forgetRecorded s).turns = s.turns ∧ (forgetRecorded s).ret = s.ret ∧
    (forgetRecorded s).hostRd = s.hostRd := by
  and_intros <;> rfl

/-! ### Draws, requests and samples -/

theorem drawPrepare_forgetRecorded (s : State) : drawPrepare (forgetRecorded s) = forgetIn (drawPrepare s) := by
  unfold drawPrepare
  simp only [forgetRecorded_fields]
  split <;> rfl

theorem drawErase_forgetRecorded (s : State) : drawErase (forgetRecorded s) = forgetIn (drawErase s) := by
  unfold drawErase
  simp only [forgetRecorded_fields]
  split <;> rfl

theorem drawWrite_forgetRecorded (s : State) : drawWrite (forgetRecorded s) = forgetIn (drawWrite s) := by
  unfold drawWrite
  simp only [forgetRecorded_fields]
  split <;> rfl

theorem drawRx_forgetRecorded (s : State) : drawRx (forgetRecorded s) = forgetIn (drawRx s) := by
  unfold drawRx
  simp only [forgetRecorded_fields]
  split <;> rfl

theorem drawTimer_forgetRecorded (s : State) : drawTimer (forgetRecorded s) = forgetIn (drawTimer s) := by
  unfold drawTimer
  simp only [forgetRecorded_fields]
  split <;> rfl

theorem flashPrepare_forgetRecorded (s0 s1 : Nat) (s : State) :
    flashPrepare s0 s1 (forgetRecorded s) = forgetIn (flashPrepare s0 s1 s) := by
  unfold flashPrepare
  rw [drawPrepare_forgetRecorded]
  rfl

theorem scrambleSectors_forgetRecorded (s0 s1 : Nat) (s : State) :
    scrambleSectors s0 s1 (forgetRecorded s) = forgetRecorded (scrambleSectors s0 s1 s) :=
  List.foldl_hom forgetRecorded fun _ _ => rfl

theorem flashErase_forgetRecorded (s0 s1 : Nat) (s : State) :
    flashErase s0 s1 (forgetRecorded s) = forgetIn (flashErase s0 s1 s) := by
  unfold flashErase
  rw [drawErase_forgetRecorded]
  rcases drawErase s with ⟨_ | _, t⟩
  · rfl
  · simp only [forgetIn, scrambleSectors_forgetRecorded]
    rfl

theorem flashWrite_forgetRecorded (addr : Nat) (buf : Buf) (n : Nat) (s : State) :
    flashWrite addr buf n (forgetRecorded s) = forgetIn (flashWrite addr buf n s) := by
  unfold flashWrite
  rw [drawWrite_forgetRecorded]
  rcases drawWrite s with ⟨_ | _, t⟩
  · cases buf <;> rfl
  · rfl

theorem verify_forgetRecorded (len : Nat) (s : State) :
    verify len (forgetRecorded s) = forgetIn (verify len s) := rfl

theorem advanceCursor_forgetRecorded (len : Nat) (s : State) :
    advanceCursor len (forgetRecorded s) = forgetRecorded (advanceCursor len s) := by
  unfold advanceCursor
  simp only [forgetRecorded_fields]
  split <;> rfl

theorem timerExpired_forgetRecorded (s : State) :
    timerExpired (forgetRecorded s) = forgetIn (timerExpired s) := by
  unfold timerExpired
  rw [drawTimer_forgetRecorded]
  rfl

theorem rxSample_forgetRecorded (s : State) : rxSample (forgetRecorded s) = forgetIn (rxSample s) := by
  unfold rxSample
  rw [drawRx_forgetRecorded]
  rfl

theorem sampleLine_forgetRecorded (s : State) : sampleLine (forgetRecorded s) = forgetIn (sampleLine s) := by
  rw [sampleLine_eq, sampleLine_eq, rxSample_forgetRecorded]
  simp only [forgetIn, timerExpired_forgetRecorded]
  split <;> rfl

/-! ### Operations -/

/-- A chain of requests commutes with forgetting where its request and its rest do. -/
theorem andThen_forgetRecorded {r r' : Answer × State} {k : State → Answer × State} (hr : r' = forgetIn r)
    (hk : ∀ t, k (forgetRecorded t) = forgetIn (k t)) : andThen r' k = forgetIn (andThen r k) := by
  subst hr
  unfold andThen forgetIn
  split
  · exact hk r.2
  · rfl

theorem sessionErase_forgetRecorded (s : State) :
    sessionErase (forgetRecorded s) = forgetIn (sessionErase s) :=
  andThen_forgetRecorded (flashPrepare_forgetRecorded _ _ s) fun t =>
  andThen_forgetRecorded (flashErase_forgetRecorded _ _ t) fun _ => rfl

theorem writeVerified_forgetRecorded (len : Nat) (s : State) :
    writeVerified len (forgetRecorded s) = forgetIn (writeVerified len s) :=
  andThen_forgetRecorded (flashPrepare_forgetRecorded _ _ s) fun t =>
  andThen_forgetRecorded (flashWrite_forgetRecorded _ _ _ t) fun u =>
  andThen_forgetRecorded (verify_forgetRecorded len u) fun v => by
    rw [advanceCursor_forgetRecorded]
    rfl

theorem eraseIfOwed_forgetRecorded (s : State) : eraseIfOwed (forgetRecorded s) = forgetIn (eraseIfOwed s) := by
  rw [eraseIfOwed_eq, eraseIfOwed_eq, sessionErase_forgetRecorded]
  simp only [forgetRecorded_fields]
  split <;> rfl

theorem program_forgetRecorded (n : Nat) (s : State) : program n (forgetRecorded s) = forgetIn (program n s) := by
  have hchain := andThen_forgetRecorded (eraseIfOwed_forgetRecorded s)
    (k := fun s => writeVerified (clampLen s.cfg n) s) fun t => writeVerified_forgetRecorded (clampLen t.cfg n) t
  unfold program
  rw [hchain]
  simp only [forgetRecorded_fields]
  split <;> rfl

theorem rewriteUnit_forgetRecorded (s : State) : rewriteUnit (forgetRecorded s) = forgetIn (rewriteUnit s) :=
  andThen_forgetRecorded (flashPrepare_forgetRecorded _ _ s) fun t =>
  andThen_forgetRecorded (flashErase_forgetRecorded _ _ t) fun u =>
  andThen_forgetRecorded (flashPrepare_forgetRecorded _ _ u) fun v =>
  andThen_forgetRecorded (flashWrite_forgetRecorded _ _ _ v) fun _ => rfl

theorem writeTrailer_forgetRecorded (v : Half) (s : State) :
    writeTrailer v (forgetRecorded s) = forgetIn (writeTrailer v s) :=
  rewriteUnit_forgetRecorded (copyUnit v s)

theorem isAppValid_forgetRecorded (s : State) : isAppValid (forgetRecorded s) = forgetIn (isAppValid s) := by
  rw [isAppValid_eq, isAppValid_eq]
  by_cases h : (readTrailer s).1 = erased16
  · have h' : (readTrailer (forgetRecorded s)).1 = erased16 := h
    rw [if_pos h, if_pos h']; rfl
  · have h' : ¬ (readTrailer (forgetRecorded s)).1 = erased16 := h
    rw [if_neg h, if_neg h']; rfl

theorem crcCommand_forgetRecorded (s : State) : crcCommand (forgetRecorded s) = forgetRecorded (crcCommand s) := by
  unfold crcCommand
  simp only [forgetRecorded_fields]
  split <;> rfl

/-- R218: a command commutes with forgetting where its body does. -/
theorem asCommand_forgetRecorded {run : State → State}
    (hrun : ∀ t, run (forgetRecorded t) = forgetRecorded (run t)) (s : State) :
    asCommand run (forgetRecorded s) = forgetRecorded (asCommand run s) := by
  unfold asCommand
  simp only [forgetRecorded_fields]
  split
  · exact hrun (clearCmdErr s)
  · rfl

theorem closePacket_forgetRecorded (s : State) : closePacket (forgetRecorded s) = forgetRecorded (closePacket s) := by
  rw [closePacket_eq, closePacket_eq, program_forgetRecorded, replyTo_eq, replyTo_eq]
  simp only [forgetRecorded_fields, forgetIn]
  split_ifs <;> rfl

theorem finishImage_forgetRecorded (s : State) : finishImage (forgetRecorded s) = forgetRecorded (finishImage s) := by
  rw [finishImage_eq, finishImage_eq]
  exact congrArg Prod.snd (writeTrailer_forgetRecorded _ { (imageChecksum s).2 with result := (imageChecksum s).1 })

/-- R39: reset gives the recorded elements fixed values, so it does not see what they were. -/
theorem applyReset_forgetRecorded (s : State) : applyReset (forgetRecorded s) = applyReset s := rfl

/-! ### Instructions -/

/-- An instruction runs alike from a state and from the state with the recorded elements forgotten, but for them. -/
def RunsAlike (i : Instr) : Prop :=
  ∀ s, forgetOutcome (exec i (forgetRecorded s)) = forgetOutcome (exec i s)

/-- An instruction whose meaning always answers a next state, by an operation that commutes with forgetting. -/
theorem runsAlike_of_next {i : Instr} {f : State → State} (hexec : ∀ s, exec i s = .next (f s))
    (hf : ∀ s, f (forgetRecorded s) = forgetRecorded (f s)) : RunsAlike i := by
  intro s
  rw [hexec, hexec, hf]
  rfl

theorem seqCheck_runsAlike : RunsAlike .seqCheck := by
  intro s
  simp only [exec, execSeqCheck]
  rw [isAppValid_forgetRecorded]
  rcases isAppValid s with ⟨_ | _, t⟩ <;> rfl

theorem rxPayload_runsAlike (b : Byte) : RunsAlike (.rxPayload b) := by
  intro s
  simp only [exec, execRxPayload, forgetRecorded_fields]
  split <;> rfl

/-- Every instruction but SEQ_RECEIVE, which runs one of them. The instructions left over write fields only; among them are the
four that record (R148, R149, R150, R154). -/
theorem runsAlike_of_ne_seqReceive {i : Instr} (hi : i ≠ .seqReceive) : RunsAlike i := by
  cases i with
  | rxPayload b => exact rxPayload_runsAlike b
  | argWrite reg w => cases reg <;> exact fun _ => rfl
  | rxCrcLo b =>
    exact runsAlike_of_next (fun _ => rfl) fun s =>
      congrArg (fun t : State => { t with offset := 0 })
        (closePacket_forgetRecorded { s with rxcrc := withCrcLo s.rxcrc b })
  | cmdCrc => exact runsAlike_of_next (fun _ => rfl) (asCommand_forgetRecorded crcCommand_forgetRecorded)
  | cmdCheck =>
    exact runsAlike_of_next (fun _ => rfl)
      (asCommand_forgetRecorded fun t => congrArg Prod.snd (isAppValid_forgetRecorded t))
  | cmdTrailer =>
    exact runsAlike_of_next (fun _ => rfl)
      (asCommand_forgetRecorded fun t => congrArg Prod.snd (writeTrailer_forgetRecorded (trailerOperand t.arg0) t))
  | sessionErase =>
    exact runsAlike_of_next (fun _ => rfl) fun s => congrArg returning (sessionErase_forgetRecorded s)
  | program size =>
    exact runsAlike_of_next (fun _ => rfl) fun s => congrArg returning (program_forgetRecorded (pktLen size) s)
  | writeTrailer v =>
    exact runsAlike_of_next (fun _ => rfl) fun s => congrArg returning (writeTrailer_forgetRecorded v s)
  | isAppValid =>
    exact runsAlike_of_next (fun _ => rfl) fun s =>
      congrArg (fun r : Bool × State => { r.2 with ret := .verdict r.1 }) (isAppValid_forgetRecorded s)
  | seqCheck => exact seqCheck_runsAlike
  | seqErase =>
    exact runsAlike_of_next (fun _ => rfl) fun s =>
      congrArg (fun r : Answer × State => { r.2 with top := .receive }) (sessionErase_forgetRecorded (sessionStart s))
  | seqFinish =>
    exact runsAlike_of_next (fun _ => rfl) fun s =>
      congrArg (fun t => { setResetReq (emit .resetReq t) with top := .restart }) (finishImage_forgetRecorded s)
  | seqReceive => exact absurd rfl hi
  | _ => exact fun _ => rfl

theorem sampled_forgetRecorded (s : State) : sampled (forgetRecorded s) = forgetRecorded (sampled s) := by
  unfold sampled
  rw [sampleLine_forgetRecorded]
  simp only [forgetRecorded_fields]
  split <;> rfl

/-- R140: the row that a receiver step decodes does not depend on the recorded elements. -/
theorem seqReceive_runsAlike : RunsAlike .seqReceive := by
  intro s
  change forgetOutcome (execSeqReceive (forgetRecorded s)) = forgetOutcome (execSeqReceive s)
  rw [execSeqReceive_eq, execSeqReceive_eq, sampleLine_forgetRecorded, sampled_forgetRecorded]
  change forgetOutcome (runReceiverRow (decodeReceiver (ctxOf s) (sampleLine s).1) _) = _
  cases hd : decodeReceiver (ctxOf s) (sampleLine s).1 with
  | ok i =>
    exact runsAlike_of_ne_seqReceive (ne_seqReceive_of_isReceiverRow (isReceiverRow_of_decodeReceiver hd)) (sampled s)
  | error r => rfl

theorem exec_runsAlike (i : Instr) : RunsAlike i := by
  by_cases hi : i = .seqReceive
  · subst hi; exact seqReceive_runsAlike
  · exact runsAlike_of_ne_seqReceive hi

/-! ### Turns and steps -/

theorem hostWriteTurn_forgetRecorded (addr width : Nat) (w : Word) (s : State) :
    hostWriteTurn addr width w (forgetRecorded s) = forgetFetched (hostWriteTurn addr width w s) := by
  have hinstr : hostWriteInstr (forgetRecorded s) addr width w = hostWriteInstr s addr width w := rfl
  unfold hostWriteTurn
  rw [hinstr]
  split <;> rfl

theorem hostFlashTurn_forgetRecorded (addr : Word) (b : Byte) (s : State) :
    hostFlashTurn addr b (forgetRecorded s) = forgetFetched (hostFlashTurn addr b s) := by
  unfold hostFlashTurn
  simp only [forgetRecorded_fields]
  split <;> rfl

theorem requesterTurn_forgetRecorded (r : Requester) (s : State) :
    requesterTurn r (forgetRecorded s) = forgetFetched (requesterTurn r s) := by
  cases r with
  | core => rfl
  | hostWrite addr width w => exact hostWriteTurn_forgetRecorded addr width w s

theorem powerLossTurn_forgetFetched (f : Fetched) :
    powerLossTurn (forgetFetched f) = forgetFetched (powerLossTurn f) := by
  cases f <;> rfl

/-- No turn but a host read shows the recorded elements. -/
theorem takeTurn_forgetRecorded {x : Turn} (hx : ∀ a w, x ≠ .hostRead a w) (s : State) :
    takeTurn x (forgetRecorded s) = forgetFetched (takeTurn x s) := by
  cases x with
  | core => rfl
  | hostWrite addr width w => exact hostWriteTurn_forgetRecorded addr width w s
  | hostRead addr width => exact absurd rfl (hx addr width)
  | hostFlash addr b => exact hostFlashTurn_forgetRecorded addr b s
  | reset => rfl
  | powerLoss during =>
    simp only [takeTurn, requesterTurn_forgetRecorded]
    exact powerLossTurn_forgetFetched _

theorem fetch_forgetRecorded {s : State} (hs : ∀ a w, s.turns.head? ≠ some (.hostRead a w)) :
    fetch (forgetRecorded s) = forgetFetched (fetch s) := by
  unfold fetch
  simp only [forgetRecorded_fields]
  cases ht : s.turns with
  | nil => rfl
  | cons x rest =>
    exact takeTurn_forgetRecorded (fun a w hx => hs a w (by rw [ht, hx]; rfl)) { s with turns := rest }

/-- R271: the reset that ends a step cut short gives the recorded elements fixed values. -/
theorem losePower_forgetOutcome (o : Host.Outcome State Fault Refusal) :
    losePower (forgetOutcome o) = losePower o := by
  cases o with
  | next t => exact congrArg Host.Outcome.next (applyReset_forgetRecorded t)
  | fault r => rfl
  | refused r => rfl

theorem step_forgetRecorded {s : State} (hs : ∀ a w, s.turns.head? ≠ some (.hostRead a w)) :
    forgetOutcome (step (forgetRecorded s)) = forgetOutcome (step s) := by
  unfold step
  rw [fetch_forgetRecorded hs]
  simp only [forgetRecorded_fields]
  split
  case isFalse => rfl
  case isTrue =>
    cases fetch s with
    | run i t => exact exec_runsAlike i t
    | cut i t =>
      have hcut : losePower (exec i (forgetRecorded t)) = losePower (exec i t) := by
        rw [← losePower_forgetOutcome, exec_runsAlike i t, losePower_forgetOutcome]
      exact congrArg forgetOutcome hcut
    | quiet t => rfl
    | refuse r => rfl

/-- Settles O60: the step from the state with the recorded elements forgotten has the same outcome but for them
(`step_forgetRecorded`), because every instruction runs alike from both states (`exec_runsAlike`). -/
theorem recordedFlagsChangeNothing : Obligations.RecordedFlagsChangeNothing := by
  unfold Obligations.RecordedFlagsChangeNothing
  intro s hs
  have h := step_forgetRecorded hs
  revert h
  rcases step s with t | r | r <;> rcases step (forgetRecorded s) with u | q | q <;> simp [forgetOutcome]

end Sys2Proof.Machine
end

section
/-!
PROOF. Host accesses of the register window (spec/10_state.md R35, R36): what a read answers, field by field, and what a write
runs.
-/

namespace Sys2Proof.Machine

/-! ### The turns of a host access -/

/-- R36, R218: a host write runs the instruction it stands for, and does nothing where it stands for none. -/
theorem step_hostWrite {s : State} {addr width : Nat} {w : Word} {rest : List Turn} (ha : admitted s.cfg = true)
    (ht : s.turns = .hostWrite addr width w :: rest) :
    step s = (hostWriteInstr s addr width w).elim (.next { s with turns := rest })
      (fun i => exec i { s with turns := rest }) := by
  have hinstr : hostWriteInstr { s with turns := rest } addr width w = hostWriteInstr s addr width w := rfl
  simp only [step, ha, if_true, fetch, ht, takeTurn, hostWriteTurn, hinstr]
  cases hostWriteInstr s addr width w <;> rfl

theorem step_hostRead {s : State} {addr width : Nat} {rest : List Turn} (ha : admitted s.cfg = true)
    (ht : s.turns = .hostRead addr width :: rest) :
    step s = .next { s with turns := rest, hostRd := hostReadWord s addr width } := by
  simp only [step, ha, if_true, fetch, ht, takeTurn]
  rfl

/-- R35, R36: an aligned 32-bit write of the window stands for what its word decodes to. -/
theorem hostWriteInstr_aligned (s : State) (w : Word) {off : Nat} (h : off < 64) (h4 : off % 4 = 0) :
    hostWriteInstr s (s.cfg.regBase + off) 4 w = (decode (ctxOf s) (.write off w)).toOption := by
  unfold hostWriteInstr
  rw [windowOffset_aligned s.cfg h h4]
  rfl

/-- R35, R36: an aligned 32-bit read of the window is answered with the word at its offset. -/
theorem hostReadWord_aligned (s : State) {off : Nat} (h : off < 64) (h4 : off % 4 = 0) :
    hostReadWord s (s.cfg.regBase + off) 4 = windowWord s off := by
  unfold hostReadWord
  rw [windowOffset_aligned s.cfg h h4]

/-- Settles O6: the write is `step_hostWrite`, and the instruction it stands for is `hostWriteInstr_aligned`. -/
theorem hostWriteRunsTheDecodedInstruction : Obligations.HostWriteRunsTheDecodedInstruction := by
  unfold Obligations.HostWriteRunsTheDecodedInstruction
  intro s rest off w ha ht h h4
  rw [step_hostWrite ha ht, hostWriteInstr_aligned s w h h4]
  refine ⟨fun i hd => ?_, fun r hd => ?_⟩
  · rw [hd]; rfl
  · rw [hd]; rfl

/-- Settles O8: an access that is taken nowhere (`windowOffset_none`) reads 0 and stands for no instruction. -/
theorem otherHostAccessesHaveNoEffect : Obligations.OtherHostAccessesHaveNoEffect := by
  unfold Obligations.OtherHostAccessesHaveNoEffect
  refine ⟨fun s addr width rest ha ht => ⟨step_hostRead ha ht, fun hout => ?_⟩,
    fun s addr width w rest ha ht hout => ?_⟩
  · unfold hostReadWord
    rw [windowOffset_none hout]
  · have hnone : hostWriteInstr s addr width w = none := by
      unfold hostWriteInstr
      rw [windowOffset_none hout]
    rw [step_hostWrite ha ht, hnone]
    rfl

/-! ### The words of the window -/

theorem setWidth_eq_zero_append {w : Nat} (n : Nat) (v : BitVec w) : v.setWidth (n + w) = 0#n ++ v := by
  rw [BitVec.setWidth_eq_append (Nat.le_add_left w n)]
  apply BitVec.eq_of_toNat_eq
  simp

/-- R35: the one-bit fields of `STATUS`. -/
theorem statusWord_flags (s : State) :
    (statusWord s).getLsbD 0 = busy s ∧ (statusWord s).getLsbD 1 = s.ok ∧ (statusWord s).getLsbD 2 = s.appValid
    ∧ (statusWord s).getLsbD 3 = s.malformed ∧ (statusWord s).getLsbD 4 = s.pktTimeout
    ∧ (statusWord s).getLsbD 5 = s.cmdErr ∧ (statusWord s).getLsbD 6 = s.resetReq
    ∧ (statusWord s).getLsbD 7 = s.erased ∧ (statusWord s).getLsbD 11 = false
    ∧ (statusWord s).getLsbD 14 = (sizeCode s.size).getLsbD 0 := by
  unfold statusWord
  and_intros <;>
  · rw [BitVec.getLsbD_append]
    simp only [BitVec.getLsbD_append]
    simp [bit]

/-- R35: `TOP` lies above the eight flags of `STATUS`, `RXS` above it and the reserved bit 11. -/
theorem statusWord_fields (s : State) :
    (statusWord s).extractLsb' 8 3 = topCode s.top ∧ (statusWord s).extractLsb' 12 2 = rxsCode s.rxs
    ∧ (statusWord s).extractLsb' 15 17 = 0 := by
  unfold statusWord
  refine ⟨?_, ?_, ?_⟩
  · iterate 8 rw [BitVec.extractLsb'_append_eq_of_le (by decide)]
    exact BitVec.extractLsb'_append_eq_right
  · iterate 10 rw [BitVec.extractLsb'_append_eq_of_le (by decide)]
    exact BitVec.extractLsb'_append_eq_right
  · iterate 11 rw [BitVec.extractLsb'_append_eq_of_le (by decide)]
    exact BitVec.extractLsb'_append_eq_left

/-- Settles O9: each word is `windowWord` at its offset (`hostReadWord_aligned`); the bits of `STATUS` are `statusWord_flags` and
`statusWord_fields`. -/
theorem registerWindowReads : Obligations.RegisterWindowReads := by
  unfold Obligations.RegisterWindowReads
  intro s rd
  have hword : ∀ off, off < 64 → off % 4 = 0 → rd off = windowWord s off := fun off => hostReadWord_aligned s
  have hstatus : rd 0x04 = statusWord s := hword 0x04 (by decide) (by decide)
  obtain ⟨hbusy, hok, hvalid, hmal, htime, herr, hreset, herased, h11, hsize⟩ := statusWord_flags s
  obtain ⟨htop, hrxs, hrest⟩ := statusWord_fields s
  refine ⟨hword 0x00 (by decide) (by decide), ?_, hword 0x08 (by decide) (by decide), hword 0x0C (by decide) (by decide),
    ?_, hword 0x14 (by decide) (by decide), ?_, ?_, ?_, ?_, ?_⟩
  · rw [hstatus]
    refine ⟨hbusy, hok, hvalid, hmal, htime, herr, hreset, herased, ?_, h11, ?_, ?_, hrest⟩
    · rw [htop]; cases s.top <;> rfl
    · rw [hrxs]; cases s.rxs <;> rfl
    · rw [hsize]; cases s.size <;> rfl
  · exact (hword 0x10 (by decide) (by decide)).trans (setWidth_eq_zero_append 16 s.result)
  · exact (hword 0x18 (by decide) (by decide)).trans (setWidth_eq_zero_append 21 s.offset)
  · exact (hword 0x1C (by decide) (by decide)).trans (setWidth_eq_zero_append 16 s.rxcrc)
  · exact (hword 0x20 (by decide) (by decide)).trans (setWidth_eq_zero_append 16 (s.pktnumInv ++ s.pktnum))
  · exact (hword 0x24 (by decide) (by decide)).trans (setWidth_eq_zero_append 16 s.trailerRd)
  · intro off h1 h2 h4
    rw [hword off (by omega) h4]
    obtain rfl | rfl | rfl | rfl | rfl | rfl :
      off = 0x28 ∨ off = 0x2C ∨ off = 0x30 ∨ off = 0x34 ∨ off = 0x38 ∨ off = 0x3C := by omega
    all_goals rfl

end Sys2Proof.Machine
end

section
/-!
PROOF. What every instruction keeps: the parameters and the turns (spec/00_scope.md R9, R10), and every flash byte outside the image
region (spec/20_memory.md R69).
-/

namespace Sys2Proof.Machine

/-- R140: a sample of the line writes the timer, the draws and the history only. -/
@[simp] theorem sampled_fields (s : State) :
    (sampled s).cfg = s.cfg ∧ (sampled s).turns = s.turns ∧ (sampled s).cursor = s.cursor
    ∧ (sampled s).flash = s.flash := by
  unfold sampled
  split <;> simp

/-- R218: a command is turned away, or runs its body with `CMD_ERR` cleared. -/
theorem asCommand_cases (run : State → State) (s : State) :
    asCommand run s = setCmdErr s ∨ asCommand run s = run (clearCmdErr s) := by
  unfold asCommand
  split
  · exact .inr rfl
  · exact .inl rfl

/-- What a command leaves alone: a part of the state that setting `CMD_ERR` and its body leave alone. -/
theorem asCommand_keeps {α : Type} (f : State → α) {run : State → State} {s : State} (hset : f (setCmdErr s) = f s)
    (hrun : f (run (clearCmdErr s)) = f s) : f (asCommand run s) = f s := by
  rcases asCommand_cases run s with h | h <;> rw [h]
  · exact hset
  · exact hrun

/-- R151: a payload byte is stored and `OFFSET` advanced, or the step faults. -/
theorem execRxPayload_next {b : Byte} {s t : State} (h : exec (.rxPayload b) s = .next t) :
    t = { storePayload (s.offset.toNat - 3) b s with offset := s.offset + 1 } := by
  simp only [exec, execRxPayload] at h
  split at h <;> cases h
  rfl

/-- R211: the CHECK step is IS_APP_VALID, the boot event of a valid image, and the move of `TOP`. -/
theorem execSeqCheck_next {s t : State} (h : exec .seqCheck s = .next t) :
    t = { emit .bootApp (isAppValid s).2 with top := .app } ∨ t = { (isAppValid s).2 with top := .erase } := by
  simp only [exec, execSeqCheck] at h
  split at h <;> rename_i hv <;> cases h <;> simp [hv]

/-! ### The parameters and the turns -/

theorem exec_keeps_cfg_turns_of_ne {i : Instr} {s t : State} (hi : i ≠ .seqReceive) (h : exec i s = .next t) :
    t.cfg = s.cfg ∧ t.turns = s.turns := by
  cases i with
  | seqReceive => exact absurd rfl hi
  | rxPayload b => rw [execRxPayload_next h]; simp
  | seqCheck => rcases execSeqCheck_next h with rfl | rfl <;> simp
  | cmdCrc | cmdCheck | cmdTrailer =>
    cases h
    exact ⟨asCommand_keeps State.cfg (by simp) (by simp), asCommand_keeps State.turns (by simp) (by simp)⟩
  | argWrite reg w => cases reg <;> cases h <;> simp
  | _ => cases h; simp [returning]

/-- R9, R10: no instruction writes the parameters or the turns to come. -/
theorem exec_keeps_cfg_turns {i : Instr} {s t : State} (h : exec i s = .next t) :
    t.cfg = s.cfg ∧ t.turns = s.turns := by
  by_cases hi : i = .seqReceive
  · subst hi
    obtain ⟨j, hj, hrow⟩ := execSeqReceive_next h
    simpa using exec_keeps_cfg_turns_of_ne (ne_seqReceive_of_isReceiverRow hj) hrow
  · exact exec_keeps_cfg_turns_of_ne hi h

/-! ### Flash outside the image region -/

/-- R69: `t` has every flash byte outside the image region of `s` as `s` has it. -/
def SameOutsideRegion (s t : State) : Prop :=
  ∀ a, a < Config.addrSpace → a < s.cfg.imgStart ∨ s.cfg.imgEnd ≤ a → t.flash.read a = s.flash.read a

theorem sameOutsideRegion_of_flash {s t : State} (h : t.flash = s.flash) : SameOutsideRegion s t := by
  intro a _ _
  rw [h]

theorem sessionErase_sameOutsideRegion {s : State} (ha : admitted s.cfg = true) :
    SameOutsideRegion s (sessionErase s).2 := by
  obtain ⟨a, m, d, es, h, -, -, hout⟩ := sessionErase_next s
  rw [h]
  exact hout ha

theorem program_sameOutsideRegion {s : State} (z : SizeClass) (ha : admitted s.cfg = true)
    (hc : s.cfg.imgStart ≤ s.cursor.toNat) : SameOutsideRegion s (program (pktLen z) s).2 := by
  obtain ⟨a, er, cur, m, d, es, h, -, -, hout, -⟩ := program_next (pktLen z) s (clampLen_spec ha z).2.2
  rw [h]
  exact hout ha hc

theorem writeTrailer_sameOutsideRegion {s : State} (v : Half) (ha : admitted s.cfg = true) :
    SameOutsideRegion s (writeTrailer v s).2 := by
  obtain ⟨a, m, d, es, h, -, hout, -⟩ := writeTrailer_next v s
  rw [h]
  have hbase := (trailerBase_add ha).1
  intro x hx hr
  exact hout ha x hx (by omega)

theorem closePacket_sameOutsideRegion {s : State} (ha : admitted s.cfg = true)
    (hc : s.cfg.imgStart ≤ s.cursor.toNat) : SameOutsideRegion s (closePacket s) := by
  rw [closePacket_eq]
  split
  · rw [replyTo_eq]
    exact program_sameOutsideRegion s.size ha hc
  · exact sameOutsideRegion_of_flash (by simp)

theorem finishImage_sameOutsideRegion {s : State} (ha : admitted s.cfg = true) :
    SameOutsideRegion s (finishImage s) :=
  writeTrailer_sameOutsideRegion (s := { (imageChecksum s).2 with result := (imageChecksum s).1 }) _ ha

theorem exec_sameOutsideRegion_of_ne {i : Instr} {s t : State} (ha : admitted s.cfg = true)
    (hc : s.cfg.imgStart ≤ s.cursor.toNat) (hi : i ≠ .seqReceive) (h : exec i s = .next t) : SameOutsideRegion s t := by
  cases i with
  | seqReceive => exact absurd rfl hi
  | rxPayload b => rw [execRxPayload_next h]; exact sameOutsideRegion_of_flash (by simp)
  | rxCrcLo b => cases h; exact closePacket_sameOutsideRegion (s := { s with rxcrc := withCrcLo s.rxcrc b }) ha hc
  | cmdCrc | cmdCheck => cases h; exact sameOutsideRegion_of_flash (asCommand_keeps State.flash (by simp) (by simp))
  | cmdTrailer =>
    cases h
    rcases asCommand_cases (fun s => (writeTrailer (trailerOperand s.arg0) s).2) s with h | h <;> rw [h]
    · exact sameOutsideRegion_of_flash (by simp)
    · exact writeTrailer_sameOutsideRegion (s := clearCmdErr s) _ ha
  | argWrite reg w => cases reg <;> cases h <;> exact sameOutsideRegion_of_flash rfl
  | sessionErase => cases h; exact sessionErase_sameOutsideRegion ha
  | program z => cases h; exact program_sameOutsideRegion z ha hc
  | writeTrailer v => cases h; exact writeTrailer_sameOutsideRegion v ha
  | seqCheck => rcases execSeqCheck_next h with rfl | rfl <;> exact sameOutsideRegion_of_flash (by simp)
  | seqErase => cases h; exact sessionErase_sameOutsideRegion (s := sessionStart s) ha
  | seqFinish => cases h; exact finishImage_sameOutsideRegion ha
  | _ => cases h; exact sameOutsideRegion_of_flash (by simp)

/-- R69: with `CURSOR` not below the image region no instruction changes a flash byte outside it. -/
theorem exec_sameOutsideRegion {i : Instr} {s t : State} (ha : admitted s.cfg = true)
    (hc : s.cfg.imgStart ≤ s.cursor.toNat) (h : exec i s = .next t) : SameOutsideRegion s t := by
  by_cases hi : i = .seqReceive
  · subst hi
    obtain ⟨j, hj, hrow⟩ := execSeqReceive_next h
    have hrowKeeps := exec_sameOutsideRegion_of_ne (by simpa using ha) (by simpa using hc)
      (ne_seqReceive_of_isReceiverRow hj) hrow
    simpa [SameOutsideRegion] using hrowKeeps
  · exact exec_sameOutsideRegion_of_ne ha hc hi h

end Sys2Proof.Machine
end

section
/-!
PROOF. Reset (spec/10_state.md R39, spec/70_reset_and_hazards.md R260), and the reset that a power loss ends in (R271).
-/

namespace Sys2Proof.Machine

theorem applyReset_atReset (s : State) : AtReset (applyReset s) s.cfg s.flash := by
  have hscratch : (applyReset s).scratch.length = s.cfg.trailerUnit := drawBytes_length _ _
  unfold AtReset
  rw [hscratch]
  and_intros <;> rfl

theorem asPktbuf_toList (buf : Vector Byte 1024) : asPktbuf buf.toList = buf := by
  ext i hi
  simp [asPktbuf]

/-- R33, U1: the bytes written down as draws are those that reset leaves in `PKTBUF`. -/
theorem applyReset_pktbuf (s : State) (buf : Vector Byte 1024) (h : s.draws.bytes = buf.toList) :
    (applyReset s).pktbuf = buf := by
  have hdraw := drawBytes_given buf.toList [] s (by simpa using h)
  rw [Vector.length_toList] at hdraw
  calc (applyReset s).pktbuf = asPktbuf (drawBytes 1024 s).1 := rfl
    _ = buf := by rw [hdraw, asPktbuf_toList]

theorem step_reset {s : State} {rest : List Turn} (ha : admitted s.cfg = true) (ht : s.turns = .reset :: rest) :
    step s = .next (applyReset { s with turns := rest }) := by
  simp only [step, ha, if_true, fetch, ht, takeTurn]

theorem step_core {s : State} {rest : List Turn} (ha : admitted s.cfg = true) (ht : s.turns = .core :: rest) :
    step s = exec (decodeTop s.top) { s with turns := rest } := by
  simp only [step, ha, if_true, fetch, ht, takeTurn, coreTurn]

/-- R271: a step in which power is lost is the step it is lost in, and then a reset. -/
theorem step_powerLoss {s : State} {r : Requester} {rest : List Turn} (ha : admitted s.cfg = true)
    (ht : s.turns = .powerLoss r :: rest) : step s = losePower (step { s with turns := turnOf r :: rest }) := by
  simp only [step, ha, if_true, fetch, ht, takeTurn]
  cases r with
  | core => rfl
  | hostWrite addr width w =>
    simp only [turnOf, requesterTurn]
    rcases hostWriteTurn_cases addr width w { s with turns := rest } with hq | ⟨off, i, -, hq⟩
    · rw [hq]; rfl
    · rw [hq]; rfl

/-- R9, R218: a step of a requester runs one instruction, or nothing. -/
theorem step_requester {s v : State} {r : Requester} {rest : List Turn} (ha : admitted s.cfg = true)
    (ht : s.turns = turnOf r :: rest) (h : step s = .next v) :
    v = { s with turns := rest } ∨ ∃ i, exec i { s with turns := rest } = .next v := by
  cases r with
  | core => exact .inr ⟨_, (step_core ha ht).symm.trans h⟩
  | hostWrite addr width w =>
    rw [step_hostWrite ha ht] at h
    cases hi : hostWriteInstr s addr width w with
    | none => rw [hi] at h; cases h; exact .inl rfl
    | some i => rw [hi] at h; exact .inr ⟨i, h⟩

/-- Settles O12: reset is `applyReset_atReset`; a power loss is `step_powerLoss`, and what the interrupted step leaves is
`exec_keeps_cfg_turns` and `exec_sameOutsideRegion`. -/
theorem resetLeavesTheSpecValues : Obligations.ResetLeavesTheSpecValues := by
  unfold Obligations.ResetLeavesTheSpecValues
  refine ⟨fun s rest ha ht => ⟨⟨_, step_reset ha ht, applyReset_atReset _, rfl⟩, fun buf => ?_⟩,
    fun s v r rest ht hv => ?_⟩
  · refine ⟨{ s.draws with bytes := buf.toList }, _, step_reset ha ht, applyReset_pktbuf _ buf rfl⟩
  · have ha : admitted s.cfg = true := (step_next hv).1
    have hrun : v = { s with turns := rest } ∨ ∃ i, exec i { s with turns := rest } = .next v :=
      step_requester (s := { s with turns := turnOf r :: rest }) ha rfl hv
    have hkept : v.cfg = s.cfg ∧ v.turns = rest := by
      rcases hrun with rfl | ⟨i, hi⟩
      · exact ⟨rfl, rfl⟩
      · exact exec_keeps_cfg_turns hi
    refine ⟨⟨applyReset v, ?_, ?_, hkept.2⟩, fun hinv => ?_⟩
    · rw [step_powerLoss ha ht, hv]; rfl
    · rw [← hkept.1]; exact applyReset_atReset v
    · obtain ⟨-, -, -, -, -, hcur, -⟩ := hinv
      rcases hrun with rfl | ⟨i, hi⟩
      · exact fun _ _ _ => rfl
      · exact exec_sameOutsideRegion (s := { s with turns := rest }) ha hcur hi

end Sys2Proof.Machine
end

section
/-!
PROOF. `CURSOR` (spec/10_state.md R27, spec/42_flash_programmer.md R181, R184): it moves in PROGRAM only, and only past bytes whose
compare matched.
-/

namespace Sys2Proof.Machine

/-- R184: `CURSOR` does not go back from `s` to `t`, and where it moves, the events added hold a compare from the old `CURSOR` that
answered match, of the bytes it moved past. -/
def CursorMovesOnMatch (s t : State) : Prop :=
  s.cursor.toNat ≤ t.cursor.toNat
  ∧ (t.cursor ≠ s.cursor →
      ∃ es n, t.history = s.history ++ es ∧ .flashCompare s.cursor.toNat .pktbuf n true ∈ es
        ∧ t.cursor.toNat ≤ s.cursor.toNat + n
        ∧ (s.cursor.toNat + n < Config.addrSpace → t.cursor.toNat = s.cursor.toNat + n))

theorem cursorMovesOnMatch_of_eq {s t : State} (h : t.cursor = s.cursor) : CursorMovesOnMatch s t :=
  ⟨by rw [h], fun hne => absurd h hne⟩

/-- Events recorded before an operation leave what `CURSOR` does in it as it is. -/
theorem CursorMovesOnMatch.of_earlier {s u t : State} {es : List Event} (hc : u.cursor = s.cursor)
    (hh : u.history = s.history ++ es) (h : CursorMovesOnMatch u t) : CursorMovesOnMatch s t := by
  obtain ⟨hle, hmove⟩ := h
  rw [hc] at hle hmove
  refine ⟨hle, fun hne => ?_⟩
  obtain ⟨es', n, hh', hmem, hbound⟩ := hmove hne
  exact ⟨es ++ es', n, by rw [hh', hh, List.append_assoc], List.mem_append_right es hmem, hbound⟩

/-- Events recorded after an operation leave what `CURSOR` did in it as it was. -/
theorem CursorMovesOnMatch.to_later {s t u : State} {es : List Event} (h : CursorMovesOnMatch s t)
    (hc : u.cursor = t.cursor) (hh : u.history = t.history ++ es) : CursorMovesOnMatch s u := by
  obtain ⟨hle, hmove⟩ := h
  rw [← hc] at hle hmove
  refine ⟨hle, fun hne => ?_⟩
  obtain ⟨es', n, hh', hmem, hbound⟩ := hmove hne
  exact ⟨es' ++ es, n, by rw [hh, hh', List.append_assoc], List.mem_append_left es hmem, hbound⟩

/-- R181, R184: the limits of an advance, where the bytes moved past lie in the 32-bit space. -/
theorem Advanced.bounds {c : Config} {len : Nat} {old new : Word} (h : Advanced c len old new) (hp : 0 < c.writePage)
    (hl : c.writePage ≤ len) (hs : old.toNat + len ≤ Config.addrSpace) :
    old.toNat ≤ new.toNat ∧ new.toNat ≤ old.toNat + len
    ∧ (old.toNat + len < Config.addrSpace → new.toNat = old.toNat + len) := by
  obtain ⟨hfits, hlimits⟩ := h
  obtain ⟨h1, h2, -⟩ := hlimits hp hl hs
  refine ⟨h1, h2, fun hlt => ?_⟩
  rw [hfits hlt, BitVec.toNat_ofNat]
  exact Nat.mod_eq_of_lt hlt

/-- R181, R183: PROGRAM leaves `CURSOR` where it fails, and advances it past the bytes it compared where it succeeds. -/
theorem program_cursorMovesOnMatch {s : State} (z : SizeClass) (ha : admitted s.cfg = true) :
    CursorMovesOnMatch s (program (pktLen z) s).2 := by
  obtain ⟨a, er, cur, m, d, es, h, -, -, -, hbound, -, hfail, hok⟩ :=
    program_next (pktLen z) s (clampLen_spec ha z).2.2
  rw [h]
  cases a with
  | fail => exact cursorMovesOnMatch_of_eq (hfail rfl)
  | ok =>
    obtain ⟨hmem, hadv⟩ := hok rfl
    have hend := hbound (List.ne_nil_of_mem hmem)
    obtain ⟨-, -, -, -, hspace, -⟩ := (admitted_iff s.cfg).mp ha
    obtain ⟨hle, hlimits⟩ := hadv.bounds (Nat.lt_of_lt_of_le (by decide) (writePage_pos ha).1) (Nat.le_max_right _ _)
      (hend.trans hspace)
    exact ⟨hle, fun _ => ⟨es, _, rfl, hmem, hlimits⟩⟩

theorem closePacket_cursorMovesOnMatch {s : State} (ha : admitted s.cfg = true) :
    CursorMovesOnMatch s (closePacket s) := by
  rw [closePacket_eq]
  split
  · rw [replyTo_eq]
    exact (program_cursorMovesOnMatch s.size ha).to_later rfl rfl
  · exact cursorMovesOnMatch_of_eq rfl

theorem exec_cursorMovesOnMatch_of_ne {i : Instr} {s t : State} (ha : admitted s.cfg = true) (he : i ≠ .seqErase)
    (hi : i ≠ .seqReceive) (h : exec i s = .next t) : CursorMovesOnMatch s t := by
  cases i with
  | seqReceive => exact absurd rfl hi
  | seqErase => exact absurd rfl he
  | program z => cases h; exact program_cursorMovesOnMatch z ha
  | rxCrcLo b => cases h; exact closePacket_cursorMovesOnMatch (s := { s with rxcrc := withCrcLo s.rxcrc b }) ha
  | rxPayload b => rw [execRxPayload_next h]; exact cursorMovesOnMatch_of_eq (by simp)
  | cmdCrc | cmdCheck | cmdTrailer =>
    cases h
    exact cursorMovesOnMatch_of_eq (asCommand_keeps State.cursor (by simp) (by simp))
  | argWrite reg w => cases reg <;> cases h <;> exact cursorMovesOnMatch_of_eq rfl
  | seqCheck => rcases execSeqCheck_next h with rfl | rfl <;> exact cursorMovesOnMatch_of_eq (by simp)
  | _ => cases h; exact cursorMovesOnMatch_of_eq (by simp [returning])

/-- R140: a sample of the line adds to the history. -/
theorem sampled_history (s : State) : ∃ es, (sampled s).history = s.history ++ es := by
  unfold sampled
  obtain ⟨x, d, tm, es, h, -, -⟩ := sampleLine_next s
  split
  · exact ⟨[], (List.append_nil _).symm⟩
  · exact ⟨[], (List.append_nil _).symm⟩
  · exact ⟨es, by rw [h]⟩
  · exact ⟨es, by rw [h]⟩

/-- R184: no instruction but SEQ_ERASE moves `CURSOR` otherwise. -/
theorem exec_cursorMovesOnMatch {i : Instr} {s t : State} (ha : admitted s.cfg = true) (he : i ≠ .seqErase)
    (h : exec i s = .next t) : CursorMovesOnMatch s t := by
  by_cases hi : i = .seqReceive
  · subst hi
    obtain ⟨j, hj, hrow⟩ := execSeqReceive_next h
    have hne : j ≠ .seqErase := fun h => by subst h; cases hj
    obtain ⟨es, hes⟩ := sampled_history s
    exact (exec_cursorMovesOnMatch_of_ne (by simpa using ha) hne (ne_seqReceive_of_isReceiverRow hj) hrow).of_earlier
      (by simp) hes
  · exact exec_cursorMovesOnMatch_of_ne ha he hi h

theorem decodeTop_eq_seqErase {top : Top} : decodeTop top = .seqErase ↔ top = .erase := by
  cases top <;> simp [decodeTop]

theorem decodeWrite_ne_seqErase {top : Top} {off : Nat} {w : Word} {i : Instr} (h : decodeWrite top off w = .ok i) :
    i ≠ .seqErase := by
  rintro rfl
  simpa using decodeWrite_cases h

/-- Settles O57: a step runs an instruction other than SEQ_ERASE (`exec_cursorMovesOnMatch`), or is a turn of another agent, of
which none but a reset, ruled out here, writes `CURSOR`. -/
theorem cursorOnlyAdvancesOnAMatch : Obligations.CursorOnlyAdvancesOnAMatch := by
  unfold Obligations.CursorOnlyAdvancesOnAMatch
  intro s t _ hnr htop h
  change CursorMovesOnMatch s t
  obtain ⟨ha, u, rfl, hcore | ⟨off, w, i, hd, hwrite⟩ | rfl | ⟨v, a, w, -, rfl⟩ | ⟨-, a, b, rfl⟩ | ⟨hreset, -⟩
    | ⟨r, hloss, -⟩⟩ := step_next h
  · exact exec_cursorMovesOnMatch (s := { s with turns := s.turns.tail }) ha (mt decodeTop_eq_seqErase.mp htop) hcore
  · exact exec_cursorMovesOnMatch (s := { s with turns := s.turns.tail }) ha (decodeWrite_ne_seqErase hd) hwrite
  · exact cursorMovesOnMatch_of_eq rfl
  · exact cursorMovesOnMatch_of_eq rfl
  · exact cursorMovesOnMatch_of_eq rfl
  · rw [NoResetTurn, hreset] at hnr
    exact absurd hnr (by simp [isReset])
  · rw [NoResetTurn, hloss] at hnr
    exact absurd hnr (by simp [isReset])

end Sys2Proof.Machine
end

section
/-!
PROOF. What every instruction adds to the history (spec/20_memory.md R69): requests that stay in the image region and in its sectors,
and events that are no request.
-/

namespace Sys2Proof.Machine

/-- R69: the history of `t` is that of `s` with events added, all of them within the reach of `s`. -/
def AddsWithinReach (s t : State) : Prop :=
  ∃ es, t.history = s.history ++ es ∧ ∀ e ∈ es, WithinReach s.cfg e

theorem addsWithinReach_of_history {s t : State} (h : t.history = s.history) : AddsWithinReach s t :=
  ⟨[], by simp [h], by simp⟩

theorem addsWithinReach_of_event {s t : State} {e : Event} (h : t.history = s.history ++ [e])
    (he : WithinReach s.cfg e) : AddsWithinReach s t :=
  ⟨[e], h, by simpa using he⟩

theorem AddsWithinReach.trans {s t u : State} (h : AddsWithinReach s t) (hcfg : t.cfg = s.cfg)
    (h' : AddsWithinReach t u) : AddsWithinReach s u := by
  obtain ⟨es, hes, hreach⟩ := h
  obtain ⟨es', hes', hreach'⟩ := h'
  rw [hcfg] at hreach'
  exact ⟨es ++ es', by rw [hes', hes, List.append_assoc], List.forall_mem_append.mpr ⟨hreach, hreach'⟩⟩

/-! ### Which requests are within reach -/

/-- R69: a request of all the region's sectors. -/
theorem withinReach_regionSectors {c : Config} (ha : admitted c = true) (b : Answer) :
    WithinReach c (.flashPrepare (sectorFirst c) (sectorLast c) b)
    ∧ WithinReach c (.flashErase (sectorFirst c) (sectorLast c) b) := by
  have hle := (sectorFirst_le ha).1
  simp [WithinReach, hle]

/-- R69: a request of the trailer's sector. -/
theorem withinReach_trailerSector {c : Config} (ha : admitted c = true) (b : Answer) :
    WithinReach c (.flashPrepare (trailerSector c) (trailerSector c) b)
    ∧ WithinReach c (.flashErase (trailerSector c) (trailerSector c) b) := by
  obtain ⟨hle, htrailer⟩ := sectorFirst_le ha
  simp [WithinReach, htrailer, hle]

/-- R62, R69: the trailer's two bytes lie in the region. -/
theorem withinReach_trailerBytes {c : Config} (ha : admitted c = true) (v : Byte) :
    WithinReach c (.memRead (trailerLoAddr c) v) ∧ WithinReach c (.memRead (trailerHiAddr c) v) := by
  have hroom := (imgEnd_mod ha).2
  simp only [WithinReach, trailerLoAddr, trailerHiAddr]
  omega

/-! ### Operations -/

theorem memReadRange_addsWithinReach {s : State} {lo n : Nat} (hlo : s.cfg.imgStart ≤ lo)
    (hhi : lo + n ≤ s.cfg.imgEnd) : AddsWithinReach s (memReadRange lo n s).2 := by
  refine ⟨_, rfl, List.forall_mem_map.mpr fun a h => ?_⟩
  have hrange := List.mem_range'_1.mp h
  exact ⟨by omega, by omega⟩

/-- R61, R124: the checksum reads the data span. -/
theorem imageChecksum_addsWithinReach {s : State} (ha : admitted s.cfg = true) :
    AddsWithinReach s (imageChecksum s).2 := by
  have hroom := (imgEnd_mod ha).2
  refine memReadRange_addsWithinReach (Nat.le_refl _) ?_
  unfold dataLen
  omega

theorem readTrailer_addsWithinReach {s : State} (ha : admitted s.cfg = true) :
    AddsWithinReach s (readTrailer s).2 :=
  (addsWithinReach_of_event (memRead_history _ s) (withinReach_trailerBytes ha _).1).trans rfl
    (addsWithinReach_of_event rfl (withinReach_trailerBytes ha _).2)

theorem isAppValid_addsWithinReach {s : State} (ha : admitted s.cfg = true) :
    AddsWithinReach s (isAppValid s).2 := by
  rw [isAppValid_eq]
  split
  · exact readTrailer_addsWithinReach ha
  · exact (readTrailer_addsWithinReach ha).trans rfl (imageChecksum_addsWithinReach (s := (readTrailer s).2) ha)

theorem crcCommand_addsWithinReach (s : State) : AddsWithinReach s (crcCommand s) := by
  unfold crcCommand
  split
  case isTrue => exact addsWithinReach_of_history rfl
  case isFalse hin => exact memReadRange_addsWithinReach (by omega) (by omega)

/-- R218: a command is turned away without a request, or makes those of its body. -/
theorem asCommand_addsWithinReach {run : State → State} {s : State} (h : AddsWithinReach s (run (clearCmdErr s))) :
    AddsWithinReach s (asCommand run s) := by
  rcases asCommand_cases run s with heq | heq <;> rw [heq]
  · exact addsWithinReach_of_history rfl
  · exact h

theorem sessionErase_addsWithinReach {s : State} (ha : admitted s.cfg = true) :
    AddsWithinReach s (sessionErase s).2 := by
  obtain ⟨a, m, d, es, h, -, hes, -⟩ := sessionErase_next s
  rw [h]
  refine ⟨es, rfl, fun e he => ?_⟩
  obtain ⟨b, rfl | rfl⟩ := hes e he
  · exact (withinReach_regionSectors ha b).1
  · exact (withinReach_regionSectors ha b).2

/-- R181: PROGRAM makes requests only where its range ends in the region. -/
theorem program_addsWithinReach {s : State} (z : SizeClass) (ha : admitted s.cfg = true)
    (hc : s.cfg.imgStart ≤ s.cursor.toNat) : AddsWithinReach s (program (pktLen z) s).2 := by
  obtain ⟨a, er, cur, m, d, es, h, -, -, -, hbound, hes, -⟩ := program_next (pktLen z) s (clampLen_spec ha z).2.2
  rw [h]
  refine ⟨es, rfl, fun e he => ?_⟩
  have hend := hbound (List.ne_nil_of_mem he)
  obtain ⟨b, rfl⟩ | ⟨b, rfl⟩ | ⟨b, rfl⟩ | ⟨b, rfl⟩ := hes e he
  · exact (withinReach_regionSectors ha b).1
  · exact (withinReach_regionSectors ha b).2
  · exact ⟨hc, hend⟩
  · exact ⟨hc, hend⟩

/-- R185: WRITE_TRAILER reads and writes the trailer's erase unit. -/
theorem writeTrailer_addsWithinReach {s : State} (v : Half) (ha : admitted s.cfg = true) :
    AddsWithinReach s (writeTrailer v s).2 := by
  obtain ⟨hstart, hend⟩ := trailerBase_add ha
  obtain ⟨a, m, d, es, h, -, -, hes⟩ := writeTrailer_next v s
  rw [h]
  refine (memReadRange_addsWithinReach hstart hend.le).trans rfl ⟨es, rfl, fun e he => ?_⟩
  obtain ⟨b, rfl⟩ | ⟨b, rfl⟩ | ⟨b, rfl⟩ := hes e he
  · exact (withinReach_trailerSector ha b).1
  · exact (withinReach_trailerSector ha b).2
  · exact ⟨hstart, hend.le⟩

theorem finishImage_addsWithinReach {s : State} (ha : admitted s.cfg = true) : AddsWithinReach s (finishImage s) :=
  (imageChecksum_addsWithinReach ha).trans rfl
    (writeTrailer_addsWithinReach (s := { (imageChecksum s).2 with result := (imageChecksum s).1 }) _ ha)

theorem transmit_addsWithinReach (b : Byte) (s : State) : AddsWithinReach s (transmit b s) :=
  addsWithinReach_of_event rfl trivial

theorem sendPoll_addsWithinReach (s : State) : AddsWithinReach s (sendPoll s) :=
  (transmit_addsWithinReach pollByte s).trans rfl (addsWithinReach_of_event rfl trivial)

theorem openPacket_addsWithinReach (z : SizeClass) (s : State) : AddsWithinReach s (openPacket z s) :=
  addsWithinReach_of_event rfl trivial

theorem closePacket_addsWithinReach {s : State} (ha : admitted s.cfg = true)
    (hc : s.cfg.imgStart ≤ s.cursor.toNat) : AddsWithinReach s (closePacket s) := by
  rw [closePacket_eq]
  split
  · rw [replyTo_eq]
    exact (program_addsWithinReach s.size ha hc).trans (by simp) (transmit_addsWithinReach _ _)
  · exact transmit_addsWithinReach nakByte s

/-- R140: a sample of the line makes no request. -/
theorem sampleLine_addsWithinReach (s : State) : AddsWithinReach s (sampleLine s).2 := by
  obtain ⟨x, d, tm, es, h, -, hes⟩ := sampleLine_next s
  rw [h]
  refine ⟨es, rfl, fun e he => ?_⟩
  obtain ⟨r, rfl⟩ | ⟨b, rfl⟩ := hes e he <;> trivial

theorem sampled_addsWithinReach (s : State) : AddsWithinReach s (sampled s) := by
  unfold sampled
  split
  case h_1 | h_2 => exact addsWithinReach_of_history rfl
  case h_3 | h_4 => exact sampleLine_addsWithinReach s

/-! ### Instructions -/

theorem exec_addsWithinReach_of_ne {i : Instr} {s t : State} (ha : admitted s.cfg = true)
    (hc : s.cfg.imgStart ≤ s.cursor.toNat) (hi : i ≠ .seqReceive) (h : exec i s = .next t) : AddsWithinReach s t := by
  cases i with
  | seqReceive => exact absurd rfl hi
  | rxIdlePoll | rxPollingTimeout => cases h; exact sendPoll_addsWithinReach s
  | sohPolling | stxPolling | sohReceiving | stxReceiving => cases h; exact openPacket_addsWithinReach _ s
  | eotReceiving | txPoll | txAck | txNak => cases h; exact transmit_addsWithinReach _ s
  | rxPayload b => rw [execRxPayload_next h]; exact addsWithinReach_of_history rfl
  | rxCrcLo b => cases h; exact closePacket_addsWithinReach (s := { s with rxcrc := withCrcLo s.rxcrc b }) ha hc
  | cmdCrc => cases h; exact asCommand_addsWithinReach (crcCommand_addsWithinReach (clearCmdErr s))
  | cmdCheck => cases h; exact asCommand_addsWithinReach (isAppValid_addsWithinReach (s := clearCmdErr s) ha)
  | cmdTrailer => cases h; exact asCommand_addsWithinReach (writeTrailer_addsWithinReach (s := clearCmdErr s) _ ha)
  | argWrite reg w => cases reg <;> cases h <;> exact addsWithinReach_of_history rfl
  | sessionErase => cases h; exact sessionErase_addsWithinReach ha
  | program z => cases h; exact program_addsWithinReach z ha hc
  | writeTrailer v => cases h; exact writeTrailer_addsWithinReach v ha
  | isAppValid => cases h; exact isAppValid_addsWithinReach ha
  | seqCheck =>
    rcases execSeqCheck_next h with rfl | rfl
    · exact (isAppValid_addsWithinReach ha).trans (by simp) (addsWithinReach_of_event (e := .bootApp) rfl trivial)
    · exact isAppValid_addsWithinReach ha
  | seqErase => cases h; exact sessionErase_addsWithinReach (s := sessionStart s) ha
  | seqFinish =>
    cases h
    exact (finishImage_addsWithinReach ha).trans (by simp) (addsWithinReach_of_event (e := .resetReq) rfl trivial)
  | _ => cases h; exact addsWithinReach_of_history rfl

/-- R69: with `CURSOR` not below the image region every request of an instruction is within reach. -/
theorem exec_addsWithinReach {i : Instr} {s t : State} (ha : admitted s.cfg = true)
    (hc : s.cfg.imgStart ≤ s.cursor.toNat) (h : exec i s = .next t) : AddsWithinReach s t := by
  by_cases hi : i = .seqReceive
  · subst hi
    obtain ⟨j, hj, hrow⟩ := execSeqReceive_next h
    exact (sampled_addsWithinReach s).trans (by simp)
      (exec_addsWithinReach_of_ne (by simpa using ha) (by simpa using hc) (ne_seqReceive_of_isReceiverRow hj) hrow)
  · exact exec_addsWithinReach_of_ne ha hc hi h

/-- Settles O55: a step runs an instruction (`exec_addsWithinReach`, where the invariant gives that `CURSOR` is not below the
region), or is a turn of another agent, of which none but a reset, ruled out here, writes the history. -/
theorem requestsStayInTheRegion : Obligations.RequestsStayInTheRegion := by
  unfold Obligations.RequestsStayInTheRegion
  intro s t ⟨_, _, _, _, _, hcur, _⟩ hnr h
  change AddsWithinReach s t
  obtain ⟨ha, u, rfl, hcore | ⟨off, w, i, -, hwrite⟩ | rfl | ⟨v, a, w, -, rfl⟩ | ⟨-, a, b, rfl⟩ | ⟨hreset, -⟩
    | ⟨r, hloss, -⟩⟩ := step_next h
  · exact exec_addsWithinReach (s := { s with turns := s.turns.tail }) ha hcur hcore
  · exact exec_addsWithinReach (s := { s with turns := s.turns.tail }) ha hcur hwrite
  · exact addsWithinReach_of_history rfl
  · exact addsWithinReach_of_history rfl
  · exact addsWithinReach_of_history rfl
  · rw [NoResetTurn, hreset] at hnr
    exact absurd hnr (by simp [isReset])
  · rw [NoResetTurn, hloss] at hnr
    exact absurd hnr (by simp [isReset])

end Sys2Proof.Machine
end

section
/-!
PROOF. The contracts of the flash requests (spec/20_memory.md R65 to R68): what each writes, and that every answer, and after a failed
request every choice of bytes, is some draw.
-/

namespace Sys2Proof.Machine

/-! ### Prepare and compare -/

/-- R68: flash holds the first `n` bytes of a list exactly when it does so byte by byte. -/
theorem Memory.readRange_eq_take_iff (m : Memory) (bytes : List Byte) (lo n : Nat) :
    m.readRange lo n = bytes.take n ↔ ∀ i, i < n → bytes[i]? = some (m.read (lo + i)) := by
  constructor
  · intro heq i hi
    rw [← Memory.readRange_getElem? m lo n i hi, heq, List.getElem?_take_of_lt hi]
  · intro hbytes
    refine List.ext_getElem? fun i => ?_
    by_cases hi : i < n
    · rw [Memory.readRange_getElem? m lo n i hi, List.getElem?_take_of_lt hi, hbytes i hi]
    · rw [List.getElem?_eq_none (by simpa using hi), List.getElem?_eq_none ((List.length_take_le n bytes).trans (by omega))]

/-- Settles O35: what the two requests write is `flashPrepare_next` and `flashCompare_next`; a compare's answer is read byte by byte
by `Memory.readRange_eq_take_iff`. -/
theorem prepareAndCompareContracts : Obligations.PrepareAndCompareContracts := by
  unfold Obligations.PrepareAndCompareContracts
  refine ⟨fun s s0 s1 => ⟨_, flashPrepare_next s0 s1 s⟩, fun s s0 s1 a => ⟨{ s.draws with prepare := [a] }, rfl⟩,
    fun s addr buf n _ => ⟨_, flashCompare_next addr buf n s, ?_⟩⟩
  rw [decide_eq_true_iff]
  exact Memory.readRange_eq_take_iff s.flash (bufBytes buf s) addr n

/-! ### Erase -/

/-- R66: the pieces of the map whose bytes a failed erase of the sectors `s0 .. s1` leaves as draws. -/
def sectorPieces (c : Config) (s0 s1 : Nat) : List Sector :=
  c.sectors.filter fun p => decide (s0 ≤ p.number) && decide (p.number ≤ s1)

theorem scrambleSectors_eq (s0 s1 : Nat) (s : State) :
    scrambleSectors s0 s1 s = (sectorPieces s.cfg s0 s1).foldl scramblePiece s := rfl

/-- Every address of the sectors `s0 .. s1` lies in one of their pieces. -/
theorem exists_sectorPiece {c : Config} {s0 s1 a : Nat} (ht : tiles 0 c.sectors = true) (ha : a < Config.addrSpace)
    (h0 : s0 ≤ sectorOf c a) (h1 : sectorOf c a ≤ s1) :
    ∃ p ∈ sectorPieces c s0 s1, p.base ≤ a ∧ a < p.base + p.size := by
  obtain ⟨p, hp, hlo, hhi, hnum⟩ := sectorOf_piece ht ha
  rw [hnum] at h0 h1
  exact ⟨p, by simp [sectorPieces, hp, h0, h1], hlo, hhi⟩

/-- R66: whatever it answers, an erase leaves every byte outside its sectors. -/
theorem flashErase_keeps_outside_sectors {s0 s1 : Nat} {s : State} (ht : tiles 0 s.cfg.sectors = true) {a : Nat}
    (hout : ¬ (s0 ≤ sectorOf s.cfg a ∧ sectorOf s.cfg a ≤ s1)) :
    (flashErase s0 s1 s).2.flash.read a = s.flash.read a := by
  obtain ⟨m, d, h, -, hok, hfail⟩ := flashErase_next s0 s1 s
  rw [h]
  cases hans : (drawErase s).1 with
  | ok => rw [hok hans, Memory.read_eraseSectors, if_neg fun hin => hout (inSectors_eq_true.mp hin.1)]
  | fail =>
    refine hfail hans a fun p hp h0 h1 hin => hout ?_
    rw [sectorOf_of_mem ht hp hin.1 hin.2]
    exact ⟨h0, h1⟩

/-- R66: an erase answered ok leaves every byte of its sectors erased, where no cell is stuck. -/
theorem flashErase_erases_sectors {s0 s1 : Nat} {s : State} (hs : s.stuck = []) (hans : (drawErase s).1 = .ok) {a : Nat}
    (hin : s0 ≤ sectorOf s.cfg a ∧ sectorOf s.cfg a ≤ s1) : (flashErase s0 s1 s).2.flash.read a = 0xFF := by
  obtain ⟨m, d, h, -, hok, -⟩ := flashErase_next s0 s1 s
  rw [h]
  simp only
  rw [hok hans, Memory.read_eraseSectors, if_pos ⟨inSectors_eq_true.mpr hin, by simp [hs]⟩]
  rfl

/-- The values of `v` at the addresses of a piece, in ascending order. -/
def pieceValues (v : Nat → Byte) (p : Sector) : List Byte :=
  (List.range' p.base p.size).map v

@[simp] theorem pieceValues_length (v : Nat → Byte) (p : Sector) : (pieceValues v p).length = p.size := by
  simp [pieceValues]

/-- R15, R66: where the draws begin with the values of `v` in a piece, the piece's bytes become those values. -/
theorem scramblePiece_given {v : Nat → Byte} {s : State} {p : Sector} {rest : List Byte} (hs : s.stuck = [])
    (hb : s.draws.bytes = pieceValues v p ++ rest) :
    (scramblePiece s p).draws.bytes = rest
    ∧ ∀ a, p.base ≤ a → a < p.base + p.size → (scramblePiece s p).flash.read a = v a := by
  have hdraw := drawBytes_given (pieceValues v p) rest s hb
  rw [pieceValues_length] at hdraw
  refine ⟨?_, fun a h1 h2 => ?_⟩
  · change s.draws.bytes.drop p.size = rest
    rw [hb, ← pieceValues_length v p, List.drop_left]
  · have hidx : a - p.base < p.size := by omega
    rw [scramblePiece_eq, hdraw, Memory.read_patch, if_pos ⟨h1, by simpa using h2, by simp [hs]⟩]
    simp [pieceValues, hidx, Nat.add_sub_cancel' h1]

/-- R15, R66: where the draws are the values of `v` in some pieces, one piece after another, those pieces end with them. -/
theorem foldl_scramblePiece_given {v : Nat → Byte} {ps : List Sector} {s : State} (hs : s.stuck = [])
    (hb : s.draws.bytes = ps.flatMap (pieceValues v)) {a : Nat} (ha : ∃ p ∈ ps, p.base ≤ a ∧ a < p.base + p.size) :
    (ps.foldl scramblePiece s).flash.read a = v a := by
  induction ps generalizing s with
  | nil => simp at ha
  | cons p ps ih =>
    obtain ⟨hrest, hpiece⟩ := scramblePiece_given hs hb
    rw [List.foldl_cons]
    by_cases hlater : ∃ q ∈ ps, q.base ≤ a ∧ a < q.base + q.size
    · exact ih (by simpa using hs) hrest hlater
    · obtain ⟨m, d, hfold, -, hkeep⟩ := foldl_scramblePiece_next ps (scramblePiece s p)
      have hin : p.base ≤ a ∧ a < p.base + p.size := by simpa [hlater] using ha
      rw [hfold]
      exact (hkeep a fun q hq hqa => hlater ⟨q, hq, hqa⟩).trans (hpiece a hin.1 hin.2)

/-- R66, U4: draws under which an erase of the sectors `s0 .. s1` is answered fail and leaves the values of `v` in them. -/
def failedEraseDraws (v : Nat → Byte) (s0 s1 : Nat) (s : State) : Draws :=
  { s.draws with erase := [.fail], bytes := (sectorPieces s.cfg s0 s1).flatMap (pieceValues v) }

theorem flashErase_failedEraseDraws_read {v : Nat → Byte} {s0 s1 : Nat} {s : State} (hs : s.stuck = [])
    (ht : tiles 0 s.cfg.sectors = true) {a : Nat} (ha : a < Config.addrSpace) (h0 : s0 ≤ sectorOf s.cfg a)
    (h1 : sectorOf s.cfg a ≤ s1) :
    (flashErase s0 s1 { s with draws := failedEraseDraws v s0 s1 s }).2.flash.read a = v a := by
  change (scrambleSectors s0 s1 { s with draws := { failedEraseDraws v s0 s1 s with erase := [] } }).flash.read a = v a
  rw [scrambleSectors_eq]
  refine foldl_scramblePiece_given ?_ rfl (exists_sectorPiece ht ha h0 h1)
  exact hs

/-- Settles O36: the bytes kept are `flashErase_keeps_outside_sectors`, those erased `flashErase_erases_sectors`, and any bytes are
left by `failedEraseDraws`. -/
theorem eraseContract : Obligations.EraseContract := by
  unfold Obligations.EraseContract
  intro s s0 s1 hs ht
  refine ⟨?_, ⟨{ s.draws with erase := [.ok] }, rfl⟩,
    fun v => ⟨failedEraseDraws v s0 s1 s, rfl, fun x hx h0 h1 => flashErase_failedEraseDraws_read hs ht hx h0 h1⟩⟩
  obtain ⟨m, d, h, -⟩ := flashErase_next s0 s1 s
  have hflash : (flashErase s0 s1 s).2.flash = m := by rw [h]
  refine ⟨_, m, d, h, fun x _ hout => ?_, fun hans x h0 h1 => ?_⟩
  · rw [← hflash]; exact flashErase_keeps_outside_sectors ht hout
  · rw [← hflash]; exact flashErase_erases_sectors hs hans ⟨h0, h1⟩

/-! ### Write -/

/-- R67, U4: draws under which a write of `n` bytes is answered fail and leaves the first `n` values of `v`. -/
def failedWriteDraws (v : Nat → Byte) (n : Nat) (s : State) : Draws :=
  { s.draws with write := [.fail], bytes := (List.range n).map v }

theorem flashWrite_failedWriteDraws (v : Nat → Byte) (addr : Nat) (buf : Buf) (n : Nat) (s : State) :
    (flashWrite addr buf n { s with draws := failedWriteDraws v n s }).2.flash
      = s.flash.patch s.stuck addr ((List.range n).map v) := by
  have hdraw := drawBytes_given ((List.range n).map v) []
    { s with draws := { failedWriteDraws v n s with write := [] } } (List.append_nil _).symm
  rw [List.length_map, List.length_range] at hdraw
  exact congrArg (s.flash.patch s.stuck addr) hdraw

/-- R67: a byte of a range just written is the byte written there, where no cell is stuck. -/
theorem Memory.read_patch_add (m : Memory) (lo : Nat) (bytes : List Byte) {i : Nat} (hi : i < bytes.length) :
    (m.patch [] lo bytes).read (lo + i) = bytes[i] := by
  rw [Memory.read_patch, if_pos ⟨by omega, by omega, List.not_mem_nil⟩, Nat.add_sub_cancel_left,
    List.getD_eq_getElem _ _ hi]

/-- Settles O37: the flash after a write is the flash before with `n` bytes replaced (`flashWrite_next`), so its bytes are those
of `Memory.read_patch` and `Memory.read_patch_add`; any bytes are left by `failedWriteDraws`. -/
theorem writeContract : Obligations.WriteContract := by
  unfold Obligations.WriteContract
  intro s addr buf n hs hn
  refine ⟨?_, ⟨{ s.draws with write := [.ok] }, rfl⟩, fun v => ⟨failedWriteDraws v n s, rfl, fun i hi => ?_⟩⟩
  · obtain ⟨bytes, d, h, hlen, hok⟩ := flashWrite_next addr buf n s hn
    refine ⟨_, _, d, h, fun x hx => ?_, fun hans i hi => ?_⟩
    · rw [Memory.read_patch, if_neg (by omega)]
    · rw [hs, Memory.read_patch_add _ _ _ (hlen.symm ▸ hi), ← List.getElem?_eq_getElem, hok hans,
        List.getElem?_take_of_lt hi]
  · rw [flashWrite_failedWriteDraws, hs, Memory.read_patch_add _ _ _ (by simpa using hi)]
    simp

end Sys2Proof.Machine
end

section
/-!
PROOF. The obligations of spec/30_encoding.md: the words and bytes of the alphabets (R90 to R103), the decode map of a received byte
(R97), and what a step transmits (R99).
-/

namespace Sys2Proof.Machine

/-! ### Words and transmitted bytes -/

/-- Settles O1: fifteen closed words, each decoded by evaluation. -/
theorem specWordsDecode : Obligations.SpecWordsDecode := by
  unfold Obligations.SpecWordsDecode
  decide

/-- Settles O23: `execTxPoll`, `execTxAck` and `execTxNak` are `transmit` of one byte each. -/
theorem transmittedBytesAreEvents : Obligations.TransmittedBytesAreEvents := by
  unfold Obligations.TransmittedBytesAreEvents
  exact fun s => ⟨rfl, rfl, rfl⟩

/-! ### The decode map of a received byte -/

/-- R97, R140: no byte is sampled in `IDLE` and `DONE`. -/
theorem decode_rx_of_not_sampling {c : Ctx} (b : Byte) (h : c.rxs = .idle ∨ c.rxs = .done) :
    decode c (.rx b) = .error .notSampled := by
  rcases h with h | h <;> simp [decode, h]

theorem decode_rx_of_polling {c : Ctx} (b : Byte) (htop : c.top = .receive) (h : c.rxs = .polling) :
    decode c (.rx b) = .ok (decodePolling (.byte b)) := by
  simp [decode, decodeReceiver, htop, h]

theorem decode_rx_of_receiving {c : Ctx} (b : Byte) (htop : c.top = .receive) (h : c.rxs = .receiving) :
    decode c (.rx b) = decodePosition c.offset c.size b := by
  simp [decode, decodeReceiver, decodeReceiving, htop, h]

theorem decodePosition_payload {offset : BitVec 11} {size : SizeClass} (b : Byte) (hlo : 3 ≤ offset.toNat)
    (hhi : offset.toNat ≤ pktLen size + 2) : decodePosition offset size b = .ok (.rxPayload b) := by
  unfold decodePosition
  rw [if_neg (by omega), if_neg (by omega), if_neg (by omega), if_pos hhi]

theorem decodePosition_crcHi {offset : BitVec 11} {size : SizeClass} (b : Byte) (h : offset.toNat = pktLen size + 3) :
    decodePosition offset size b = .ok (.rxCrcHi b) := by
  unfold decodePosition
  rw [if_neg (by omega), if_neg (by omega), if_neg (by omega), if_neg (by omega), if_pos h]

theorem decodePosition_crcLo {offset : BitVec 11} {size : SizeClass} (b : Byte) (h : offset.toNat = pktLen size + 4) :
    decodePosition offset size b = .ok (.rxCrcLo b) := by
  unfold decodePosition
  rw [if_neg (by omega), if_neg (by omega), if_neg (by omega), if_neg (by omega), if_neg (by omega), if_pos h]

/-- Log 10: R97 has no line for a byte past the packet. -/
theorem decodePosition_past {offset : BitVec 11} {size : SizeClass} (b : Byte) (h : pktLen size + 4 < offset.toNat) :
    decodePosition offset size b = .error .offsetOutOfPacket := by
  unfold decodePosition
  rw [if_neg (by omega), if_neg (by omega), if_neg (by omega), if_neg (by omega), if_neg (by omega), if_neg (by omega)]

/-- Settles O4: the decoder goes by the receiver's state (`decode_rx_of_…`), and in `RECEIVING` by the position in the packet
(`decodePosition_…`). -/
theorem decodeMapOfReceivedByte : Obligations.DecodeMapOfReceivedByte := by
  unfold Obligations.DecodeMapOfReceivedByte
  intro c b htop N
  have hN : N = pktLen c.size := rfl
  clear_value N
  subst hN
  refine ⟨decode_rx_of_not_sampling b, decode_rx_of_polling b htop, fun hrxs => ?_⟩
  rw [decode_rx_of_receiving b htop hrxs]
  exact ⟨fun h => if_pos h, fun h => by simp [decodePosition, h], fun h => by simp [decodePosition, h],
    decodePosition_payload b, decodePosition_crcHi b, decodePosition_crcLo b, decodePosition_past b⟩

/-! ### What an operation transmits -/

/-- R99: the history of `t` is that of `s` with events added, whose transmissions send the bytes `bs`, in this order. -/
def Sends (bs : List Byte) (s t : State) : Prop :=
  ∃ es, t.history = s.history ++ es ∧ es.filterMap txByte = bs

theorem sends_nil_of_history {s t : State} (h : t.history = s.history) : Sends [] s t :=
  ⟨[], by simp [h], rfl⟩

theorem sends_of_event {s t : State} {e : Event} (h : t.history = s.history ++ [e]) : Sends (txByte e).toList s t :=
  ⟨[e], h, by cases he : txByte e <;> simp [he]⟩

theorem Sends.trans {bs cs : List Byte} {s t u : State} (h : Sends bs s t) (h' : Sends cs t u) :
    Sends (bs ++ cs) s u := by
  obtain ⟨es, hes, hbs⟩ := h
  obtain ⟨es', hes', hcs⟩ := h'
  exact ⟨es ++ es', by rw [hes', hes, List.append_assoc], by rw [List.filterMap_append, hbs, hcs]⟩

/-- An operation transmits nothing where its request and what follows the request transmit nothing. -/
theorem andThen_sends_nil {s : State} {r : Answer × State} {k : State → Answer × State} (hr : Sends [] s r.2)
    (hk : ∀ u, Sends [] u (k u).2) : Sends [] s (andThen r k).2 := by
  unfold andThen
  split
  · exact hr.trans (hk r.2)
  · exact hr.trans (sends_nil_of_history rfl)

theorem flashPrepare_sends_nil (s0 s1 : Nat) (s : State) : Sends [] s (flashPrepare s0 s1 s).2 := by
  obtain ⟨d, h⟩ := flashPrepare_next s0 s1 s
  rw [h]
  exact sends_of_event (e := .flashPrepare s0 s1 _) rfl

theorem flashErase_sends_nil (s0 s1 : Nat) (s : State) : Sends [] s (flashErase s0 s1 s).2 := by
  obtain ⟨m, d, h, -⟩ := flashErase_next s0 s1 s
  rw [h]
  exact sends_of_event (e := .flashErase s0 s1 _) rfl

theorem flashWrite_sends_nil (addr : Nat) (buf : Buf) (n : Nat) (s : State) :
    Sends [] s (flashWrite addr buf n s).2 := by
  rw [flashWrite_eq]
  split
  · exact sends_of_event (e := .flashWrite addr buf n .ok) (by simp)
  · exact sends_of_event (e := .flashWrite addr buf n .fail) (by simp)

theorem memReadRange_sends_nil (lo n : Nat) (s : State) : Sends [] s (memReadRange lo n s).2 :=
  ⟨_, rfl, by simp [txByte]⟩

theorem verify_sends_nil (len : Nat) (s : State) : Sends [] s (verify len s).2 :=
  sends_of_event (e := .flashCompare s.cursor.toNat .pktbuf len _) rfl

theorem sessionErase_sends_nil (s : State) : Sends [] s (sessionErase s).2 :=
  andThen_sends_nil (flashPrepare_sends_nil _ _ s) fun u =>
  andThen_sends_nil (flashErase_sends_nil _ _ u) fun _ =>
  sends_nil_of_history rfl

theorem writeVerified_sends_nil (len : Nat) (s : State) : Sends [] s (writeVerified len s).2 :=
  andThen_sends_nil (flashPrepare_sends_nil _ _ s) fun u =>
  andThen_sends_nil (flashWrite_sends_nil _ _ _ u) fun v =>
  andThen_sends_nil (verify_sends_nil len v) fun _ =>
  sends_nil_of_history (by simp)

theorem eraseIfOwed_sends_nil (s : State) : Sends [] s (eraseIfOwed s).2 := by
  rw [eraseIfOwed_eq]
  split
  · exact sends_nil_of_history rfl
  · exact sessionErase_sends_nil s

/-- R181: PROGRAM itself replies nothing; its caller does (R159). -/
theorem program_sends_nil (n : Nat) (s : State) : Sends [] s (program n s).2 := by
  unfold program
  split
  · exact sends_nil_of_history rfl
  · exact andThen_sends_nil (eraseIfOwed_sends_nil s) fun u => writeVerified_sends_nil _ u

theorem rewriteUnit_sends_nil (s : State) : Sends [] s (rewriteUnit s).2 :=
  andThen_sends_nil (flashPrepare_sends_nil _ _ s) fun u =>
  andThen_sends_nil (flashErase_sends_nil _ _ u) fun v =>
  andThen_sends_nil (flashPrepare_sends_nil _ _ v) fun w =>
  andThen_sends_nil (flashWrite_sends_nil _ _ _ w) fun _ =>
  sends_nil_of_history rfl

theorem writeTrailer_sends_nil (v : Half) (s : State) : Sends [] s (writeTrailer v s).2 :=
  (memReadRange_sends_nil (trailerBase s.cfg) s.cfg.trailerUnit s).trans (rewriteUnit_sends_nil (copyUnit v s))

theorem finishImage_sends_nil (s : State) : Sends [] s (finishImage s) :=
  (memReadRange_sends_nil s.cfg.imgStart (dataLen s.cfg) s).trans
    (writeTrailer_sends_nil _ { (imageChecksum s).2 with result := (imageChecksum s).1 })

theorem readTrailer_sends_nil (s : State) : Sends [] s (readTrailer s).2 :=
  (sends_of_event (memRead_history (trailerLoAddr s.cfg) s)).trans
    (sends_of_event (memRead_history (trailerHiAddr s.cfg) (memRead (trailerLoAddr s.cfg) s).2))

theorem isAppValid_sends_nil (s : State) : Sends [] s (isAppValid s).2 := by
  rw [isAppValid_eq]
  split
  · exact readTrailer_sends_nil s
  · exact (readTrailer_sends_nil s).trans (memReadRange_sends_nil s.cfg.imgStart (dataLen s.cfg) (readTrailer s).2)

theorem crcCommand_sends_nil (s : State) : Sends [] s (crcCommand s) := by
  unfold crcCommand
  split
  · exact sends_nil_of_history rfl
  · exact memReadRange_sends_nil s.arg0.toNat s.arg1.toNat s

theorem asCommand_sends_nil {run : State → State} {s : State} (h : Sends [] s (run (clearCmdErr s))) :
    Sends [] s (asCommand run s) := by
  rcases asCommand_cases run s with heq | heq <;> rw [heq]
  · exact sends_nil_of_history rfl
  · exact h

theorem transmit_sends (b : Byte) (s : State) : Sends [b] s (transmit b s) :=
  sends_of_event (transmit_history b s)

theorem sendPoll_sends (s : State) : Sends [pollByte] s (sendPoll s) :=
  (transmit_sends pollByte s).trans (sends_of_event (timerStart_history s.cfg.pollTimeoutMs (transmit pollByte s)))

theorem openPacket_sends_nil (z : SizeClass) (s : State) : Sends [] s (openPacket z s) :=
  sends_of_event (e := .timerStart s.cfg.packetTimeoutMs) rfl

/-- R153, R159: a packet is answered by exactly one byte, whatever PROGRAM answers. -/
theorem closePacket_sends (s : State) : ∃ bs ∈ [[ackByte], [nakByte]], Sends bs s (closePacket s) := by
  rw [closePacket_eq]
  split
  · rw [replyTo_eq]
    refine ⟨_, ?_, (program_sends_nil (pktLen s.size) s).trans (transmit_sends _ _)⟩
    split <;> simp
  · exact ⟨_, by simp, transmit_sends nakByte s⟩

theorem sampleLine_sends_nil (s : State) : Sends [] s (sampleLine s).2 := by
  obtain ⟨x, d, tm, es, h, -, hes⟩ := sampleLine_next s
  rw [h]
  refine ⟨es, rfl, List.filterMap_eq_nil_iff.mpr fun e he => ?_⟩
  obtain ⟨r, rfl⟩ | ⟨b, rfl⟩ := hes e he <;> rfl

theorem sampled_sends_nil (s : State) : Sends [] s (sampled s) := by
  unfold sampled
  split
  case h_1 | h_2 => exact sends_nil_of_history rfl
  case h_3 | h_4 => exact sampleLine_sends_nil s

/-! ### What an instruction transmits -/

/-- R99: what a row can transmit: the poll byte, the reply to EOT or to a packet, or nothing. The receiver step transmits what the
row it runs does. -/
def transmissions : Instr → List (List Byte)
  | .rxIdlePoll | .rxPollingTimeout | .txPoll => [[pollByte]]
  | .eotReceiving | .txAck => [[ackByte]]
  | .txNak => [[nakByte]]
  | .rxCrcLo _ => [[ackByte], [nakByte]]
  | .seqReceive => [[], [pollByte], [ackByte], [nakByte]]
  | _ => [[]]

/-- R99: no row transmits anything that the receiver step cannot. -/
theorem transmissions_subset (i : Instr) : transmissions i ⊆ transmissions .seqReceive := by
  cases i <;> simp [transmissions]

/-- R99: a transmission of one step is one of the three bytes. -/
theorem bytes_of_mem_transmissions {i : Instr} {bs : List Byte} (h : bs ∈ transmissions i) :
    bs.length ≤ 1 ∧ ∀ b ∈ bs, b = 0x43 ∨ b = 0x06 ∨ b = 0x15 := by
  have hmem := transmissions_subset i h
  simp only [transmissions, List.mem_cons, List.not_mem_nil, or_false] at hmem
  rcases hmem with rfl | rfl | rfl | rfl <;> simp [pollByte, ackByte, nakByte]

/-- R99: the rows that transmit nothing. -/
theorem exec_sends_nil {i : Instr} {s t : State} (hi : transmissions i = [[]]) (h : exec i s = .next t) :
    Sends [] s t := by
  cases i with
  | rxIdlePoll | rxPollingTimeout | txPoll | eotReceiving | txAck | txNak | rxCrcLo b | seqReceive => cases hi
  | sohPolling | stxPolling | sohReceiving | stxReceiving => cases h; exact openPacket_sends_nil _ s
  | rxPayload b => rw [execRxPayload_next h]; exact sends_nil_of_history rfl
  | cmdCrc => cases h; exact asCommand_sends_nil (crcCommand_sends_nil (clearCmdErr s))
  | cmdCheck => cases h; exact asCommand_sends_nil (isAppValid_sends_nil (clearCmdErr s))
  | cmdTrailer => cases h; exact asCommand_sends_nil (writeTrailer_sends_nil _ (clearCmdErr s))
  | argWrite reg w => cases reg <;> cases h <;> exact sends_nil_of_history rfl
  | sessionErase => cases h; exact sessionErase_sends_nil s
  | program z => cases h; exact program_sends_nil (pktLen z) s
  | writeTrailer v => cases h; exact writeTrailer_sends_nil v s
  | isAppValid => cases h; exact isAppValid_sends_nil s
  | seqCheck =>
    rcases execSeqCheck_next h with rfl | rfl
    · exact (isAppValid_sends_nil s).trans (sends_of_event (e := .bootApp) rfl)
    · exact isAppValid_sends_nil s
  | seqErase => cases h; exact sessionErase_sends_nil (sessionStart s)
  | seqFinish => cases h; exact (finishImage_sends_nil s).trans (sends_of_event (e := .resetReq) rfl)
  | _ => cases h; exact sends_nil_of_history rfl

theorem exec_sends_of_ne {i : Instr} {s t : State} (hi : i ≠ .seqReceive) (h : exec i s = .next t) :
    ∃ bs ∈ transmissions i, Sends bs s t := by
  cases i with
  | seqReceive => exact absurd rfl hi
  | rxIdlePoll | rxPollingTimeout => cases h; exact ⟨_, List.mem_singleton_self _, sendPoll_sends s⟩
  | eotReceiving | txPoll | txAck | txNak => cases h; exact ⟨_, List.mem_singleton_self _, transmit_sends _ s⟩
  | rxCrcLo b => cases h; exact closePacket_sends { s with rxcrc := withCrcLo s.rxcrc b }
  | _ => exact ⟨_, List.mem_singleton_self _, exec_sends_nil rfl h⟩

/-- R99: an instruction adds to the history, and transmits what its row can. -/
theorem exec_sends {i : Instr} {s t : State} (h : exec i s = .next t) : ∃ bs ∈ transmissions i, Sends bs s t := by
  by_cases hi : i = .seqReceive
  · subst hi
    obtain ⟨j, hj, hrow⟩ := execSeqReceive_next h
    obtain ⟨bs, hbs, hsends⟩ := exec_sends_of_ne (ne_seqReceive_of_isReceiverRow hj) hrow
    exact ⟨bs, transmissions_subset j hbs, (sampled_sends_nil s).trans hsends⟩
  · exact exec_sends_of_ne hi h

/-- Settles O56: a step runs an instruction, which transmits what its row can (`exec_sends`), at most one of the three bytes
(`bytes_of_mem_transmissions`); or it is a turn of another agent, of which none but a reset, ruled out here, writes the history. -/
theorem atMostOneByteIsSentPerStep : Obligations.AtMostOneByteIsSentPerStep := by
  unfold Obligations.AtMostOneByteIsSentPerStep
  intro s t hnr h
  suffices hsends : ∃ i, ∃ bs ∈ transmissions i, Sends bs s t by
    obtain ⟨i, _, hbs, es, hes, rfl⟩ := hsends
    exact ⟨es, hes, bytes_of_mem_transmissions hbs⟩
  have hquiet (hh : t.history = s.history) : ∃ i, ∃ bs ∈ transmissions i, Sends bs s t :=
    ⟨.nop, [], List.mem_singleton_self _, sends_nil_of_history hh⟩
  obtain ⟨-, u, rfl, hcore | ⟨off, w, i, -, hwrite⟩ | rfl | ⟨v, a, w, -, rfl⟩ | ⟨-, a, b, rfl⟩ | ⟨hreset, -⟩
    | ⟨r, hloss, -⟩⟩ := step_next h
  · exact ⟨_, exec_sends (s := { s with turns := s.turns.tail }) hcore⟩
  · exact ⟨i, exec_sends (s := { s with turns := s.turns.tail }) hwrite⟩
  · exact hquiet rfl
  · exact hquiet rfl
  · exact hquiet rfl
  · rw [NoResetTurn, hreset] at hnr
    exact absurd hnr (by simp [isReset])
  · rw [NoResetTurn, hloss] at hnr
    exact absurd hnr (by simp [isReset])

end Sys2Proof.Machine
end

section
/-!
PROOF. The obligations of spec/40_checksum.md: the two forms of CRC16_STEP (R122), the laws of CRC16 (R123), CMD_CRC (R125) and the
engine's two rows (R120, R121). A shift is linear over XOR (`crcShift_xor`) and loses no bit of the register (`crcShift_injective`);
what the laws need of CRC16_STEP follows from these two facts.
-/

namespace Sys2Proof.Machine

/-! ### One shift of the register -/

theorem crcShift_false (v : Half) : crcShift v false = if v.msb then (v <<< 1) ^^^ 0x1021 else v <<< 1 := by
  simp [crcShift]

/-- R122: a word XORed into the register enters the shift by its top bit, and moves up with the register. -/
theorem crcShift_xor (c w : Half) : crcShift (c ^^^ w) false = crcShift c w.msb ^^^ (w <<< 1) := by
  simp only [crcShift, BitVec.msb_xor, Bool.xor_false, BitVec.shiftLeft_xor_distrib]
  split
  · ac_rfl
  · rfl

/-- The feedback bit shows in bit 0 of the shifted register, because the polynomial has its term 1. -/
theorem crcShift_getLsbD_zero (c : Half) (inBit : Bool) : (crcShift c inBit).getLsbD 0 = (c.msb ^^ inBit) := by
  cases h : c.msb ^^ inBit <;> simp [crcShift, h]

theorem eq_of_msb_of_shiftLeft_one {v w : Half} (hmsb : v.msb = w.msb) (hshift : v <<< 1 = w <<< 1) : v = w := by
  refine BitVec.eq_of_getLsbD_eq fun i hi => ?_
  rcases Nat.lt_or_ge i 15 with hlow | htop
  · simpa [hi, show i + 1 < 16 by omega] using congrArg (BitVec.getLsbD · (i + 1)) hshift
  · obtain rfl : i = 15 := by omega
    simpa [BitVec.msb_eq_getLsbD_last] using hmsb

theorem crcShift_injective (inBit : Bool) : Function.Injective (crcShift · inBit) := by
  intro v w h
  have hmsb : v.msb = w.msb := by
    have hbit : (crcShift v inBit).getLsbD 0 = (crcShift w inBit).getLsbD 0 := congrArg (BitVec.getLsbD · 0) h
    rwa [crcShift_getLsbD_zero, crcShift_getLsbD_zero, Bool.xor_left_inj] at hbit
  refine eq_of_msb_of_shiftLeft_one hmsb ?_
  simp only [crcShift, hmsb] at h
  split at h
  · exact (BitVec.xor_left_inj _).mp h
  · exact h

/-! ### One byte -/

theorem hiByte_shiftLeft_eight (w : Half) : hiByte (w <<< 8) = loByte w := by
  ext i hi
  simp [hiByte, loByte]
  omega

theorem loByte_setWidth (b : Byte) : loByte (b.setWidth 16) = b := by
  rw [loByte, ← BitVec.setWidth_eq_extractLsb' (by decide)]
  exact BitVec.setWidth_setWidth_of_le b (by decide)

/-- R122: after `n` shifts of `c XOR w`, the first `n` bits of `w` are consumed, and the rest stands shifted in the register. -/
theorem iterate_crcShift_xor (c w : Half) (n : Nat) :
    (crcShift · false)^[n] (c ^^^ w) =
      (List.range n).foldl (fun c j => crcShift c (w.getMsbD j)) c ^^^ (w <<< n) := by
  induction n with
  | zero => simp
  | succ n ih =>
    rw [Function.iterate_succ_apply', ih, crcShift_xor, BitVec.msb_shiftLeft, ← BitVec.shiftLeft_add, List.range_succ,
      List.foldl_append]
    rfl

/-- R120, R122: CRC16_STEP of a high byte, by eight shifts of `c XOR w` and what is left of `w` after them. -/
theorem crcStep_hiByte (c w : Half) : crcStep c (hiByte w) = (crcShift · false)^[8] (c ^^^ w) ^^^ (w <<< 8) := by
  rw [iterate_crcShift_xor, BitVec.xor_assoc, BitVec.xor_self, BitVec.xor_zero]
  simp [crcStep, hiByte, List.range_succ, BitVec.getMsbD]

theorem crcStep_eq_iterate (c : Half) (b : Byte) :
    crcStep c b = (crcShift · false)^[8] (c ^^^ (b.setWidth 16 <<< 8)) := by
  have hlost : (b.setWidth 16 <<< 8) <<< 8 = 0#16 := by bv_omega
  calc crcStep c b = crcStep c (hiByte (b.setWidth 16 <<< 8)) := by rw [hiByte_shiftLeft_eight, loByte_setWidth]
    _ = (crcShift · false)^[8] (c ^^^ (b.setWidth 16 <<< 8)) := by rw [crcStep_hiByte, hlost, BitVec.xor_zero]

/-- R123 law 5: the register's own high byte cancels it, and leaves the low byte in its place. -/
theorem crcStep_hiByte_self (c : Half) : crcStep c (hiByte c) = c <<< 8 := by
  have hzero : (crcShift · false)^[8] 0#16 = 0#16 := Function.iterate_fixed rfl 8
  rw [crcStep_hiByte, BitVec.xor_self, hzero, BitVec.zero_xor]

theorem crcStep_injective_register (b : Byte) : Function.Injective (crcStep · b) := by
  intro c d h
  simp only [crcStep_eq_iterate] at h
  exact (BitVec.xor_left_inj _).mp ((crcShift_injective false).iterate 8 h)

theorem crcStep_injective_byte (c : Half) : Function.Injective (crcStep c) := by
  intro a b h
  rw [crcStep_eq_iterate, crcStep_eq_iterate] at h
  have hword : a.setWidth 16 <<< 8 = b.setWidth 16 <<< 8 :=
    (BitVec.xor_right_inj _).mp ((crcShift_injective false).iterate 8 h)
  simpa only [hiByte_shiftLeft_eight, loByte_setWidth] using congrArg hiByte hword

/-- Settles O32: `crcStep_eq_iterate`, whose shift without an input bit is the shift of R122. -/
theorem byteWiseStepIsTheBitSerialStep : Obligations.ByteWiseStepIsTheBitSerialStep := by
  unfold Obligations.ByteWiseStepIsTheBitSerialStep
  intro c b
  rw [crcStep_eq_iterate, funext crcShift_false]

/-! ### A sequence of bytes -/

theorem crcFrom_append (c : Half) (a b : List Byte) : crcFrom c (a ++ b) = crcFrom (crcFrom c a) b :=
  List.foldl_append

theorem crcFrom_injective (bytes : List Byte) : Function.Injective (crcFrom · bytes) := by
  induction bytes with
  | nil => exact Function.injective_id
  | cons b bytes ih => exact ih.comp (crcStep_injective_register b)

/-- R123 law 5: a register followed by its two bytes, high byte first, is driven to 0. -/
theorem crcFrom_own_bytes (c : Half) : crcFrom c [hiByte c, loByte c] = 0 := by
  calc crcFrom c [hiByte c, loByte c] = crcStep (crcStep c (hiByte c)) (loByte c) := rfl
    _ = (c <<< 8) <<< 8 := by rw [crcStep_hiByte_self, ← hiByte_shiftLeft_eight, crcStep_hiByte_self]
    _ = 0 := by bv_omega

/-- R123 law 6, for any change of one byte: the register differs after that byte, and no later byte undoes it. -/
theorem crcFrom_set_ne (c : Half) {bytes : List Byte} {i : Nat} (hi : i < bytes.length) {b : Byte} (hb : b ≠ bytes[i]) :
    crcFrom c (bytes.set i b) ≠ crcFrom c bytes := by
  intro h
  have hsplit : bytes = bytes.take i ++ bytes[i] :: bytes.drop (i + 1) := by simp
  rw [List.set_eq_take_append_cons_drop, if_pos hi, crcFrom_append] at h
  conv_rhs at h => rw [hsplit, crcFrom_append]
  exact hb (crcStep_injective_byte _ (crcFrom_injective _ h))

/-- Settles O33: chunking is `crcFrom_append`, the residue `crcFrom_own_bytes` at the CRC of the sequence. -/
theorem checksumChunkingAndResidue : Obligations.ChecksumChunkingAndResidue := by
  unfold Obligations.ChecksumChunkingAndResidue
  refine ⟨rfl, fun a b => (crcFrom_append 0 a b).symm, fun s => ?_⟩
  exact (crcFrom_append 0 s _).trans (crcFrom_own_bytes (crcOf s))

theorem xor_one_shiftLeft_ne (b : Byte) {k : Nat} (hk : k < 8) : b ^^^ (1#8 <<< k) ≠ b := by
  intro h
  have hbit := congrArg (BitVec.getLsbD · k) h
  simp [hk] at hbit

/-- Settles O34: a flipped bit changes its byte, and a changed byte changes the CRC (`crcFrom_set_ne`). -/
theorem singleBitChangesAreDetected : Obligations.SingleBitChangesAreDetected := by
  unfold Obligations.SingleBitChangesAreDetected
  intro s i k hi hk
  rw [List.getD_eq_getElem _ _ hi]
  exact crcFrom_set_ne 0 hi (xor_one_shiftLeft_ne s[i] hk)

/-! ### CMD_CRC and the engine's rows -/

theorem asCommand_of_app {s : State} (run : State → State) (htop : s.top = .app) :
    asCommand run s = run (clearCmdErr s) :=
  if_pos htop

/-- R125: a range outside the region is refused without a read. -/
theorem crcCommand_of_outside {s : State}
    (h : s.arg0.toNat < s.cfg.imgStart ∨ s.cfg.imgEnd < s.arg0.toNat + s.arg1.toNat) :
    crcCommand s = setOk .fail s :=
  if_pos h

/-- R125: a range inside the region is read once, in ascending order, and its CRC reported. -/
theorem crcCommand_of_inside {s : State} (hlo : s.cfg.imgStart ≤ s.arg0.toNat)
    (hhi : s.arg0.toNat + s.arg1.toNat ≤ s.cfg.imgEnd) :
    crcCommand s = setOk .ok { (memReadRange s.arg0.toNat s.arg1.toNat s).2 with
      result := crcOf (s.flash.readRange s.arg0.toNat s.arg1.toNat) } :=
  if_neg (by omega)

/-- Settles O28: in `APP` the command is accepted, and its body answers by the range. -/
theorem cmdCrcComputesOverTheRange : Obligations.CmdCrcComputesOverTheRange := by
  unfold Obligations.CmdCrcComputesOverTheRange
  intro s htop a n
  have haccepted : exec .cmdCrc s = .next (crcCommand (clearCmdErr s)) :=
    congrArg Host.Outcome.next (asCommand_of_app crcCommand htop)
  rw [haccepted]
  constructor
  · intro hout
    rw [crcCommand_of_outside (s := clearCmdErr s) hout]
    rfl
  · intro hlo hhi
    rw [crcCommand_of_inside (s := clearCmdErr s) hlo hhi]
    rfl

/-- Settles O31: the two rows write `ret` only, and the vectors are evaluated. -/
theorem engineRowsReturnTheirValues : Obligations.EngineRowsReturnTheirValues := by
  unfold Obligations.EngineRowsReturnTheirValues
  refine ⟨fun s c b bytes => ⟨rfl, rfl⟩, ?_⟩
  refine ⟨by decide, by decide, by decide, by decide, by decide, by decide, by decide +kernel⟩

end Sys2Proof.Machine
end

section
/-!
PROOF. The row that a receiver step decodes (spec/30_encoding.md R92, R97, spec/41_receiver.md R140): its code, where the table takes it,
and that there is one inside a packet.
-/

namespace Sys2Proof.Machine

/-! ### The code of a received byte's row -/

theorem encode_decodePolling (b : Byte) : encode (decodePolling (.byte b)) = some (.rx b) := by
  simp only [decodePolling]
  split_ifs with hsoh hstx
  · rw [hsoh]; rfl
  · rw [hstx]; rfl
  · rfl

theorem encode_decodeLeading (b : Byte) : encode (decodeLeading b) = some (.rx b) := by
  unfold decodeLeading
  split_ifs with hsoh hstx heot
  · rw [hsoh]; rfl
  · rw [hstx]; rfl
  · rw [heot]; rfl
  · rfl

theorem encode_of_decodePosition {offset : BitVec 11} {size : SizeClass} {b : Byte} {i : Instr}
    (h : decodePosition offset size b = .ok i) : encode i = some (.rx b) := by
  unfold decodePosition at h
  split_ifs at h <;> cases h
  case pos => exact encode_decodeLeading b
  all_goals rfl

/-- R97: the row of a received byte is a row whose code is that byte. -/
theorem encode_of_decode_rx {c : Ctx} {b : Byte} {i : Instr} (htop : c.top = .receive)
    (h : decode c (.rx b) = .ok i) : encode i = some (.rx b) := by
  cases hrxs : c.rxs with
  | idle => rw [decode_rx_of_not_sampling b (.inl hrxs)] at h; cases h
  | polling =>
    rw [decode_rx_of_polling b htop hrxs] at h
    cases h
    exact encode_decodePolling b
  | receiving =>
    rw [decode_rx_of_receiving b htop hrxs] at h
    exact encode_of_decodePosition h
  | done => rw [decode_rx_of_not_sampling b (.inr hrxs)] at h; cases h

/-! ### The control state of a receiver row -/

/-- R140: where a sample is taken, the row of a byte is the receiver's. -/
theorem decode_rx_of_sampling {c : Ctx} (b : Byte) (htop : c.top = .receive)
    (h : c.rxs = .polling ∨ c.rxs = .receiving) : decode c (.rx b) = decodeReceiver c (.byte b) :=
  if_pos ⟨htop, h⟩

theorem trigger_decodePolling {c : Ctx} (x : Sample) (htop : c.top = .receive) (h : c.rxs = .polling) :
    trigger c (decodePolling x) = true := by
  cases x with
  | byte b =>
    simp only [decodePolling]
    split_ifs <;> simp [trigger, htop, h]
  | expired | quiet => simp [decodePolling, trigger, htop, h]

theorem trigger_decodeLeading {c : Ctx} (b : Byte) (htop : c.top = .receive) (h : c.rxs = .receiving)
    (hoff : c.offset.toNat = 0) : trigger c (decodeLeading b) = true := by
  unfold decodeLeading
  split_ifs <;> simp [trigger, htop, h, hoff]

theorem trigger_of_decodePosition {c : Ctx} {b : Byte} {i : Instr} (htop : c.top = .receive) (hrxs : c.rxs = .receiving)
    (h : decodePosition c.offset c.size b = .ok i) : trigger c i = true := by
  unfold decodePosition at h
  split_ifs at h with h0 h1 h2 hpayload hhi hlo <;> cases h
  · exact trigger_decodeLeading b htop hrxs h0
  · simp [trigger, htop, hrxs, h1]
  · simp [trigger, htop, hrxs, h2]
  · have hpos : 3 ≤ c.offset.toNat := by omega
    simp [trigger, htop, hrxs, hpos, hpayload]
  · simp [trigger, htop, hrxs, hhi]
  · simp [trigger, htop, hrxs, hlo]

/-- R92, R97, R140: a receiver step decodes a row only in a control state in which the table takes it. -/
theorem trigger_of_decodeReceiver {c : Ctx} {x : Sample} {i : Instr} (htop : c.top = .receive)
    (h : decodeReceiver c x = .ok i) : trigger c i = true := by
  unfold decodeReceiver at h
  split at h <;> rename_i hrxs
  case h_1 | h_4 => cases h; simp [trigger, htop, hrxs]
  case h_2 => cases h; exact trigger_decodePolling x htop hrxs
  case h_3 =>
    cases x with
    | byte b => exact trigger_of_decodePosition htop hrxs h
    | expired | quiet => cases h; simp [trigger, htop, hrxs]

/-- R97: inside a packet every sample decodes to a row. -/
theorem decodeReceiver_eq_ok {c : Ctx} (x : Sample) (h : c.rxs ≠ .receiving ∨ c.offset.toNat ≤ pktLen c.size + 4) :
    ∃ i, decodeReceiver c x = .ok i := by
  unfold decodeReceiver
  split
  case h_1 | h_2 | h_4 => exact ⟨_, rfl⟩
  case h_3 hrxs =>
    cases x with
    | byte b =>
      simp only [decodeReceiving, decodePosition]
      split_ifs
      case neg =>
        have hinside := h.resolve_left (not_not_intro hrxs)
        omega
      all_goals exact ⟨_, rfl⟩
    | expired | quiet => exact ⟨_, rfl⟩

end Sys2Proof.Machine
end

section
/-!
PROOF. The receiver (spec/41_receiver.md): what each row does by itself (R141 to R156), which received bytes are
answered (R158), and the receiver step that chooses among the rows (R140).
-/

namespace Sys2Proof.Machine

/-! ### Rows with one effect -/

theorem sendPoll_eq (s : State) :
    sendPoll s = { s with
      timer := .running s.cfg.pollTimeoutMs,
      history := s.history ++ [.tx pollByte, .timerStart s.cfg.pollTimeoutMs] } := by
  simp [sendPoll, timerStart, transmit, emit]

/-- Settles O14: both rows are `sendPoll`, whose transmission and timer start are two events in turn (`sendPoll_eq`). -/
theorem pollIsSentAndTimed : Obligations.PollIsSentAndTimed := by
  unfold Obligations.PollIsSentAndTimed
  intro s t
  have hpoll : sendPoll s = t := sendPoll_eq s
  rw [← hpoll]
  exact ⟨rfl, rfl⟩

/-- Settles O15: each row is `openPacket` of its size; from `POLLING` it also writes `RXS`. -/
theorem startMarkerOpensAPacket : Obligations.StartMarkerOpensAPacket := by
  unfold Obligations.StartMarkerOpensAPacket
  exact fun s => ⟨rfl, rfl, rfl, rfl⟩

/-- Settles O16: the four rows answer the state they are given. -/
theorem receiverStepsWithoutEffect : Obligations.ReceiverStepsWithoutEffect := by
  unfold Obligations.ReceiverStepsWithoutEffect
  exact fun s b => ⟨rfl, rfl, rfl, rfl⟩

/-- Settles O17: the row transmits `ACK` and writes `RXS` and `TOP`. -/
theorem eotEndsTheSession : Obligations.EotEndsTheSession := by
  unfold Obligations.EotEndsTheSession
  exact fun s => rfl

/-- Settles O18: the two rows are `setMalformed` and `setPktTimeout`. -/
theorem framingErrorsOnlySetFlags : Obligations.FramingErrorsOnlySetFlags := by
  unfold Obligations.FramingErrorsOnlySetFlags
  exact fun s b => ⟨rfl, rfl⟩

/-- Settles O19: the two rows write the byte and `OFFSET`, without a look at either index byte. -/
theorem indexBytesAreRecorded : Obligations.IndexBytesAreRecorded := by
  unfold Obligations.IndexBytesAreRecorded
  exact fun s b => ⟨rfl, rfl⟩

/-! ### The bytes of a packet -/

/-- R33, R157: the payload of either size class fits `PKTBUF`. -/
theorem pktLen_le (z : SizeClass) : pktLen z ≤ 1024 := by
  cases z <;> decide

/-- R151: at a payload position the byte is stored and `OFFSET` advanced. -/
theorem exec_rxPayload_of_inside {s : State} (b : Byte) (hlo : 3 ≤ s.offset.toNat)
    (hhi : s.offset.toNat ≤ pktLen s.size + 2) :
    exec (.rxPayload b) s = .next { storePayload (s.offset.toNat - 3) b s with offset := s.offset + 1 } :=
  if_pos ⟨hlo, hhi⟩

/-- Log 10: elsewhere R151 gives the row no effect. -/
theorem exec_rxPayload_of_outside {s : State} (b : Byte)
    (h : s.offset.toNat < 3 ∨ pktLen s.size + 2 < s.offset.toNat) :
    exec (.rxPayload b) s = .fault .offsetOutOfPacket :=
  if_neg (by omega)

/-- Settles O20: the row is `storePayload` (`exec_rxPayload_of_inside`), of one element, within `PKTBUF` because the payload fits it;
or the fault (`exec_rxPayload_of_outside`). -/
theorem payloadByteIsStored : Obligations.PayloadByteIsStored := by
  unfold Obligations.PayloadByteIsStored
  refine fun s b => ⟨fun hlo hhi => ?_, exec_rxPayload_of_outside b⟩
  have hj : s.offset.toNat - 3 < 1024 := by have := pktLen_le s.size; omega
  refine ⟨s.pktbuf.setIfInBounds (s.offset.toNat - 3) b, ?_, ?_, fun j hne => ?_⟩
  · have hoff : BitVec.ofNat 11 (s.offset.toNat + 1) = s.offset + 1 := by simp [BitVec.ofNat_add]
    rw [exec_rxPayload_of_inside b hlo hhi, hoff]
    rfl
  · simp [hj]
  · simp [List.getElem?_set_ne hne.symm]

/-- Settles O21: the halves of the new `RXCRC` are those of `withCrcHi`. -/
theorem crcHighByteIsRecorded : Obligations.CrcHighByteIsRecorded := by
  unfold Obligations.CrcHighByteIsRecorded
  refine fun s b => ⟨withCrcHi s.rxcrc b, ?_, hiByte_withCrcHi s.rxcrc b, loByte_withCrcHi s.rxcrc b⟩
  have hrow : exec (.rxCrcHi b) s
      = .next { s with rxcrc := withCrcHi s.rxcrc b, offset := BitVec.ofNat 11 (pktLen s.size + 4) } := rfl
  rw [hrow]
  cases s.size <;> rfl

/-! ### The last byte of a packet -/

/-- R153: the state with `RXCRC` complete. -/
def withLastByte (b : Byte) (s : State) : State :=
  { s with rxcrc := withCrcLo s.rxcrc b }

/-- R153: a packet with a wrong CRC is answered `NAK`, and PROGRAM is not invoked. -/
theorem exec_rxCrcLo_of_mismatch {s : State} {b : Byte}
    (h : crcOf (s.pktbuf.toList.take (pktLen s.size)) ≠ (withLastByte b s).rxcrc) :
    exec (.rxCrcLo b) s = .next { withLastByte b s with offset := 0, history := s.history ++ [.tx nakByte] } := by
  have hclose : closePacket (withLastByte b s) = transmit nakByte (withLastByte b s) := if_neg h
  change Host.Outcome.next { closePacket (withLastByte b s) with offset := 0 } = _
  rw [hclose]
  rfl

/-- R153, R159: a packet with the right CRC is consumed by PROGRAM, whose answer picks the reply. -/
theorem exec_rxCrcLo_of_match {s p : State} {b : Byte} {a : Answer}
    (h : crcOf (s.pktbuf.toList.take (pktLen s.size)) = (withLastByte b s).rxcrc)
    (hp : program (pktLen s.size) (withLastByte b s) = (a, p)) :
    exec (.rxCrcLo b) s = .next { p with
      offset := 0, history := p.history ++ [.tx (if a = .ok then ackByte else nakByte)] } := by
  have hclose : closePacket (withLastByte b s) = replyTo (program (pktLen s.size) (withLastByte b s)) := if_pos h
  change Host.Outcome.next { closePacket (withLastByte b s) with offset := 0 } = _
  rw [hclose, hp, replyTo_eq]
  rfl

/-- Settles O22: the two cases of the CRC are `exec_rxCrcLo_of_mismatch` and `exec_rxCrcLo_of_match`; PROGRAM as part of the row differs
from PROGRAM run by itself in `ret` alone. -/
theorem lastByteVerifiesAndReplies : Obligations.LastByteVerifiesAndReplies := by
  unfold Obligations.LastByteVerifiesAndReplies
  refine fun s b => ⟨withLastByte b s, rfl, hiByte_withCrcLo s.rxcrc b, loByte_withCrcLo s.rxcrc b,
    exec_rxCrcLo_of_mismatch, fun hmatch => ?_⟩
  have hret : (program (pktLen s.size) (withLastByte b s)).2.ret = s.ret := by simp [withLastByte]
  obtain ⟨⟨a, p⟩, hp⟩ : ∃ r, program (pktLen s.size) (withLastByte b s) = r := ⟨_, rfl⟩
  rw [hp] at hret
  have hprogram : exec (.program s.size) (withLastByte b s) = .next { p with ret := .answer a } :=
    congrArg (Host.Outcome.next ∘ returning) hp
  refine ⟨_, hprogram, by cases a <;> simp, ?_, ?_⟩ <;>
  · intro ha
    obtain rfl := Ret.answer.inj ha
    rw [exec_rxCrcLo_of_match hmatch hp, ← hret]
    rfl

/-! ### Which bytes are answered -/

/-- R158: of the rows that take a byte only those of EOT and of a packet's last byte transmit. -/
theorem transmissions_of_encode_rx {i : Instr} {b : Byte} (h : encode i = some (.rx b)) (hlast : ∀ c, i ≠ .rxCrcLo c)
    (heot : i ≠ .eotReceiving) : transmissions i = [[]] := by
  cases i with
  | rxCrcLo c => exact absurd rfl (hlast c)
  | eotReceiving => exact absurd rfl heot
  | rxIdlePoll | rxPollingTimeout | txPoll | txAck | txNak | seqReceive => cases h
  | _ => rfl

/-- Settles O24: the row transmits one of its `transmissions` (`exec_sends`), which are one reply for a packet's last byte, `ACK` for EOT
and none for any other row of a received byte (`transmissions_of_encode_rx`). -/
theorem repliesOnlyToPacketsAndEot : Obligations.RepliesOnlyToPacketsAndEot := by
  unfold Obligations.RepliesOnlyToPacketsAndEot
  intro s t b i htop hd h
  obtain ⟨bs, hbs, es, hes, rfl⟩ := exec_sends h
  refine ⟨es, hes, ?_, ?_, fun hlast heot => ?_⟩
  · rintro ⟨c, rfl⟩
    simpa [transmissions, ackByte, nakByte] using hbs
  · rintro rfl
    simpa [transmissions, ackByte] using hbs
  · rw [transmissions_of_encode_rx (encode_of_decode_rx htop hd) hlast heot] at hbs
    exact List.mem_singleton.mp hbs

/-! ### The receiver step -/

/-- R140: in `IDLE` no sample is taken. -/
theorem exec_seqReceive_of_idle {s : State} (h : s.rxs = .idle) : exec .seqReceive s = exec .rxIdlePoll s := by
  simp only [exec, execSeqReceive, h]

/-- R140, R156: in `DONE` no sample is taken. -/
theorem exec_seqReceive_of_done {s : State} (h : s.rxs = .done) : exec .seqReceive s = exec .rxDone s := by
  simp only [exec, execSeqReceive, h]

/-- R140: in `POLLING` and `RECEIVING` the row is run in the state that the sample leaves. -/
theorem exec_seqReceive_of_sampling {s : State} (h : s.rxs = .polling ∨ s.rxs = .receiving) :
    exec .seqReceive s = runReceiverRow (decodeReceiver (ctxOf s) (sampleLine s).1) (sampleLine s).2 := by
  have hsampled : sampled s = (sampleLine s).2 := by rcases h with h | h <;> simp only [sampled, h]
  rw [← hsampled]
  exact execSeqReceive_eq s

/-- R140: a byte is taken before the timer is asked. -/
theorem exec_seqReceive_of_byte {s : State} {b : Byte} (htop : s.top = .receive)
    (h : s.rxs = .polling ∨ s.rxs = .receiving) (hb : (rxSample s).1 = some b) :
    exec .seqReceive s = runReceiverRow (decode (ctxOf s) (.rx b)) (rxSample s).2 := by
  have hsample : sampleLine s = (.byte b, (rxSample s).2) := by rw [sampleLine_eq, hb]
  rw [exec_seqReceive_of_sampling h, hsample, decode_rx_of_sampling b htop h]

/-- R140: without a byte the timer is asked. -/
theorem exec_seqReceive_of_no_byte {s u : State} {x : Bool} (h : s.rxs = .polling ∨ s.rxs = .receiving)
    (hb : (rxSample s).1 = none) (ht : timerExpired (rxSample s).2 = (x, u)) :
    exec .seqReceive s = runReceiverRow (decodeReceiver (ctxOf s) (if x then .expired else .quiet)) u := by
  have hsample : sampleLine s = (if x then .expired else .quiet, u) := by rw [sampleLine_eq, hb, ht]
  rw [exec_seqReceive_of_sampling h, hsample]

/-- R140: a row other than SEQ_RECEIVE answers a next state wherever the table takes it. -/
theorem exec_next_of_trigger {i : Instr} {s : State} (hi : i ≠ .seqReceive) (h : trigger (ctxOf s) i = true) :
    ∃ t, exec i s = .next t := by
  cases i with
  | seqReceive => exact absurd rfl hi
  | rxPayload b =>
    simp only [trigger, ctxOf, Bool.and_eq_true] at h
    obtain ⟨hlo, hhi⟩ := of_decide_eq_true h.2
    exact ⟨_, exec_rxPayload_of_inside b hlo hhi⟩
  | argWrite reg w => cases reg <;> exact ⟨_, rfl⟩
  | seqCheck =>
    simp only [exec, execSeqCheck]
    split <;> exact ⟨_, rfl⟩
  | _ => exact ⟨_, rfl⟩

/-- R140: a sample leaves the control registers alone, so the row is still one that the table takes. -/
theorem ctxOf_sampled (s : State) : ctxOf (sampled s) = ctxOf s := by
  unfold sampled
  split <;> simp [ctxOf]

/-- R140: a receiver step inside a packet answers a next state. -/
theorem exec_seqReceive_next {s : State} (htop : s.top = .receive)
    (h : s.rxs ≠ .receiving ∨ s.offset.toNat ≤ pktLen s.size + 4) : ∃ t, exec .seqReceive s = .next t := by
  obtain ⟨i, hi⟩ := decodeReceiver_eq_ok (c := ctxOf s) (sampleLine s).1 h
  have hrun : exec .seqReceive s = exec i (sampled s) := (execSeqReceive_eq s).trans (by rw [hi]; rfl)
  rw [hrun]
  refine exec_next_of_trigger (ne_seqReceive_of_isReceiverRow (isReceiverRow_of_decodeReceiver hi)) ?_
  rw [ctxOf_sampled]
  exact trigger_of_decodeReceiver (c := ctxOf s) htop hi

/-- Settles O7: what a sample writes is `rxSample_next`, and the draws that begin with an answer give it; the rows are
`exec_seqReceive_of_…`, by the receiver's state and the sample, and that they answer is `exec_seqReceive_next`. -/
theorem receiverStepRunsTheDecodedRow : Obligations.ReceiverStepRunsTheDecodedRow := by
  unfold Obligations.ReceiverStepRunsTheDecodedRow
  refine ⟨fun s => ⟨?_, fun r => ⟨{ s.draws with rx := [r] }, rfl⟩⟩, fun s htop => ?_⟩
  · obtain ⟨d, r, h⟩ := rxSample_next s
    exact ⟨r, d, h⟩
  refine ⟨exec_seqReceive_of_idle, exec_seqReceive_of_done, fun hsampling => ⟨fun b hb => ?_, fun hb => ?_⟩,
    exec_seqReceive_next htop⟩
  · rw [exec_seqReceive_of_byte htop hsampling hb]
    exact ⟨fun i hd => by rw [hd]; rfl, fun r hd => by rw [hd]; rfl⟩
  · intro t
    have hrun := exec_seqReceive_of_no_byte hsampling hb (x := t.1) (u := t.2) rfl
    rw [hrun]
    refine ⟨fun hrxs => ?_, fun hrxs => ?_⟩ <;>
    · simp only [decodeReceiver, ctxOf, hrxs]
      cases t.1 <;> rfl

end Sys2Proof.Machine
end

section
/-!
PROOF. The flash requests as the programmer uses them (spec/20_memory.md R65 to R67): the event each adds, the flash it leaves where it
is answered ok, and the bytes it leaves alone; and what holds of a chain of them.
-/

namespace Sys2Proof.Machine

/-- What holds of an operation stopped where its request failed, and of one that goes on, holds of the operation. -/
theorem andThen_elim {P : Answer × State → Prop} {r : Answer × State} {k : State → Answer × State}
    (hfail : r.1 = .fail → P (failed r.2)) (hok : r.1 = .ok → P (k r.2)) : P (andThen r k) := by
  cases hans : r.1 with
  | ok => rw [andThen_ok hans]; exact hok hans
  | fail => rw [andThen_fail hans]; exact hfail hans

/-! ### What a request adds to the history -/

theorem flashPrepare_history (s0 s1 : Nat) (s : State) :
    (flashPrepare s0 s1 s).2.history = s.history ++ [Event.flashPrepare s0 s1 (drawPrepare s).1] := by
  obtain ⟨d, h⟩ := flashPrepare_next s0 s1 s
  rw [h]

theorem flashErase_history (s0 s1 : Nat) (s : State) :
    (flashErase s0 s1 s).2.history = s.history ++ [Event.flashErase s0 s1 (drawErase s).1] := by
  obtain ⟨m, d, h, -⟩ := flashErase_next s0 s1 s
  rw [h]

theorem flashWrite_history (addr : Nat) (buf : Buf) (n : Nat) (s : State) :
    (flashWrite addr buf n s).2.history = s.history ++ [Event.flashWrite addr buf n (drawWrite s).1] := by
  rw [flashWrite_eq]
  cases (drawWrite s).1 <;> simp

/-! ### The flash a request leaves -/

theorem flashErase_flash_of_ok {s0 s1 : Nat} {s : State} (hans : (drawErase s).1 = .ok) :
    (flashErase s0 s1 s).2.flash = s.flash.eraseSectors s.cfg s.stuck s0 s1 := by
  obtain ⟨m, d, h, -, hok, -⟩ := flashErase_next s0 s1 s
  rw [h]
  exact hok hans

theorem flashWrite_flash_of_ok {addr : Nat} {buf : Buf} {n : Nat} {s : State} (hans : (drawWrite s).1 = .ok) :
    (flashWrite addr buf n s).2.flash = s.flash.patch s.stuck addr ((bufBytes buf s).take n) := by
  rw [flashWrite_eq, hans]
  rfl

/-- R67: whatever it answers, a write leaves every byte outside its range, also where the range is longer than the buffer. -/
theorem flashWrite_keeps_outside (addr : Nat) (buf : Buf) (n : Nat) (s : State) {a : Nat} (h : a < addr ∨ addr + n ≤ a) :
    (flashWrite addr buf n s).2.flash.read a = s.flash.read a := by
  have hpatch : ∀ bytes : List Byte, bytes.length ≤ n → (s.flash.patch s.stuck addr bytes).read a = s.flash.read a :=
    fun bytes hlen => by rw [Memory.read_patch, if_neg (by omega)]
  rw [flashWrite_eq]
  split
  · exact hpatch _ (List.length_take_le _ _)
  · exact hpatch _ (drawBytes_length _ _).le

/-- R67, R79: the first `n` bytes of a buffer read back as written, where no cell is stuck. -/
theorem Memory.readRange_patch_take (m : Memory) (lo : Nat) {bytes : List Byte} {n : Nat} (hn : n ≤ bytes.length) :
    (m.patch [] lo (bytes.take n)).readRange lo n = bytes.take n := by
  have hback := Memory.readRange_patch m lo (bytes.take n)
  rwa [List.length_take_of_le hn] at hback

/-! ### The state after a request answered ok -/

/-- R65: a prepare answered ok writes the draws and one event. -/
theorem flashPrepare_of_ok {s0 s1 : Nat} {s : State} (h : (flashPrepare s0 s1 s).1 = .ok) :
    ∃ d, (flashPrepare s0 s1 s).2 = { s with draws := d, history := s.history ++ [.flashPrepare s0 s1 .ok] } := by
  obtain ⟨d, hd⟩ := flashPrepare_next s0 s1 s
  rw [flashPrepare_answer] at h
  exact ⟨d, by rw [hd, h]⟩

/-- R67: a write answered ok leaves the buffer's bytes. -/
theorem flashWrite_of_ok {addr : Nat} {buf : Buf} {n : Nat} {s : State} (h : (flashWrite addr buf n s).1 = .ok) :
    ∃ d, (flashWrite addr buf n s).2 = { s with
      flash := s.flash.patch s.stuck addr ((bufBytes buf s).take n), draws := d,
      history := s.history ++ [.flashWrite addr buf n .ok] } := by
  obtain ⟨d, hd⟩ := drawWrite_next s
  rw [flashWrite_answer] at h
  exact ⟨d, by rw [flashWrite_eq, h, hd]; rfl⟩

end Sys2Proof.Machine
end

section
/-!
PROOF. Every step keeps the invariant (spec/42_flash_programmer.md R184, spec/10_state.md sections 2 and 3). Its two parts are kept for
different reasons: what the flash operations write (`DataInv`) by every instruction in every control state, the control registers
(`ReceiverInv`) by an instruction in a control state in which the table takes it.
-/

namespace Sys2Proof.Machine

/-- The invariant of what the flash operations write: flash, `SCRATCH` and `CURSOR`, in an admitted configuration. -/
def DataInv (s : State) : Prop :=
  admitted s.cfg = true ∧ s.flash.wf ∧ s.scratch.length = s.cfg.trailerUnit ∧ CursorInv s

/-- The invariant of the control registers `TOP`, `RXS`, `OFFSET` and `SIZE`. -/
def ReceiverInv (s : State) : Prop :=
  ControlInv s ∧ OffsetInv s

theorem inv_iff (s : State) : Inv s ↔ DataInv s ∧ ReceiverInv s := by
  unfold Inv DataInv ReceiverInv
  tauto

theorem DataInv.of_fields {s t : State} (h : DataInv s) (hcfg : t.cfg = s.cfg) (hflash : t.flash = s.flash)
    (hscratch : t.scratch = s.scratch) (hcursor : t.cursor = s.cursor) : DataInv t := by
  simpa only [DataInv, CursorInv, hcfg, hflash, hscratch, hcursor] using h

theorem ReceiverInv.of_ctx {s t : State} (h : ReceiverInv s) (hc : ctxOf t = ctxOf s) : ReceiverInv t := by
  obtain ⟨htop, hrxs, hoffset, hsize⟩ := Ctx.mk.inj hc
  simpa only [ReceiverInv, ControlInv, OffsetInv, htop, hrxs, hoffset, hsize] using h

/-- R27, R39, R212: the start of the region is a place of `CURSOR`. -/
theorem cursorInv_imgStart {s : State} (ha : admitted s.cfg = true) (hc : s.cursor = BitVec.ofNat 32 s.cfg.imgStart) :
    CursorInv s := by
  obtain ⟨-, hpage, -, hlt, hspace, -⟩ := (admitted_iff s.cfg).mp ha
  have hval : s.cursor.toNat = s.cfg.imgStart := by
    rw [hc, BitVec.toNat_ofNat]
    exact Nat.mod_eq_of_lt (hlt.trans_le hspace)
  simp only [CursorInv, hval]
  exact ⟨Nat.le_refl _, hlt.le, hpage⟩

/-- R260: reset establishes the invariant over any flash in canonical form. -/
theorem applyReset_inv {s : State} (ha : admitted s.cfg = true) (hwf : s.flash.wf) : Inv (applyReset s) := by
  have hdata : DataInv (applyReset s) :=
    ⟨ha, hwf, drawBytes_length _ _, cursorInv_imgStart ha rfl⟩
  exact (inv_iff _).mpr ⟨hdata, rfl, rfl⟩

/-! ### Flash, `SCRATCH` and `CURSOR` -/

theorem sessionErase_dataInv {s : State} (h : DataInv s) : DataInv (sessionErase s).2 := by
  obtain ⟨ha, hflash, hscratch, hcursor⟩ := h
  obtain ⟨a, m, d, es, heq, hwf, -⟩ := sessionErase_next s
  rw [heq]
  exact ⟨ha, hwf hflash, hscratch, hcursor⟩

theorem sessionStart_dataInv {s : State} (h : DataInv s) : DataInv (sessionStart s) := by
  obtain ⟨ha, hflash, hscratch, -⟩ := h
  exact ⟨ha, hflash, hscratch, cursorInv_imgStart (s := sessionStart s) ha rfl⟩

theorem writeTrailer_dataInv {s : State} (v : Half) (h : DataInv s) : DataInv (writeTrailer v s).2 := by
  obtain ⟨ha, hflash, -, hcursor⟩ := h
  obtain ⟨a, m, d, es, heq, hwf, -⟩ := writeTrailer_next v s
  rw [heq]
  exact ⟨ha, hwf hflash, by simp [patchedUnit_length], hcursor⟩

/-- R181, R184: an advance by the clamped length inside the region keeps `CURSOR` in the region, on a write page. -/
theorem Advanced.cursorInv {s t : State} {z : SizeClass} (h : Advanced s.cfg (clampLen s.cfg (pktLen z)) s.cursor t.cursor)
    (ha : admitted s.cfg = true) (hcfg : t.cfg = s.cfg) (hc : CursorInv s)
    (hend : s.cursor.toNat + clampLen s.cfg (pktLen z) ≤ s.cfg.imgEnd) : CursorInv t := by
  obtain ⟨hlo, -, hpage⟩ := hc
  obtain ⟨-, -, -, -, hspace, -⟩ := (admitted_iff s.cfg).mp ha
  obtain ⟨hle, hlast, hmod⟩ := h.2 (Nat.lt_of_lt_of_le (by decide) (writePage_pos ha).1) (Nat.le_max_right _ _)
    (hend.trans hspace)
  rw [CursorInv, hcfg]
  exact ⟨hlo.trans hle, hlast.trans hend, hmod hpage (clampLen_spec ha z).1⟩

theorem program_dataInv {s : State} (z : SizeClass) (h : DataInv s) : DataInv (program (pktLen z) s).2 := by
  obtain ⟨ha, hflash, hscratch, hcursor⟩ := h
  obtain ⟨a, er, cur, m, d, es, heq, hwf, -, -, hbound, -, hfail, hok⟩ :=
    program_next (pktLen z) s (clampLen_spec ha z).2.2
  rw [heq]
  refine ⟨ha, hwf hflash, hscratch, ?_⟩
  cases a with
  | fail => simpa only [CursorInv, hfail rfl] using hcursor
  | ok =>
    obtain ⟨hmem, hadv⟩ := hok rfl
    exact Advanced.cursorInv hadv ha rfl hcursor (hbound (List.ne_nil_of_mem hmem))

theorem closePacket_dataInv {s : State} (h : DataInv s) : DataInv (closePacket s) := by
  rw [closePacket_eq]
  split
  · rw [replyTo_eq]
    exact (program_dataInv s.size h).of_fields rfl rfl rfl rfl
  · exact h

theorem finishImage_dataInv {s : State} (h : DataInv s) : DataInv (finishImage s) :=
  writeTrailer_dataInv (s := { (imageChecksum s).2 with result := (imageChecksum s).1 }) _ h

theorem exec_dataInv_of_ne {i : Instr} {s t : State} (hinv : DataInv s) (hi : i ≠ .seqReceive)
    (h : exec i s = .next t) : DataInv t := by
  cases i with
  | seqReceive => exact absurd rfl hi
  | rxPayload b => rw [execRxPayload_next h]; exact hinv
  | rxCrcLo b => cases h; exact closePacket_dataInv (s := { s with rxcrc := withCrcLo s.rxcrc b }) hinv
  | cmdCrc | cmdCheck =>
    cases h
    exact hinv.of_fields (asCommand_keeps State.cfg (by simp) (by simp)) (asCommand_keeps State.flash (by simp) (by simp))
      (asCommand_keeps State.scratch (by simp) (by simp)) (asCommand_keeps State.cursor (by simp) (by simp))
  | cmdTrailer =>
    cases h
    rcases asCommand_cases (fun s => (writeTrailer (trailerOperand s.arg0) s).2) s with h | h <;> rw [h]
    · exact hinv
    · exact writeTrailer_dataInv (s := clearCmdErr s) _ hinv
  | argWrite reg w => cases reg <;> cases h <;> exact hinv
  | sessionErase => cases h; exact sessionErase_dataInv hinv
  | program z => cases h; exact program_dataInv z hinv
  | writeTrailer v => cases h; exact writeTrailer_dataInv v hinv
  | seqCheck => rcases execSeqCheck_next h with rfl | rfl <;> exact hinv.of_fields (by simp) (by simp) (by simp) (by simp)
  | seqErase => cases h; exact (sessionErase_dataInv (sessionStart_dataInv hinv)).of_fields (by simp) (by simp) (by simp) (by simp)
  | seqFinish => cases h; exact (finishImage_dataInv hinv).of_fields (by simp) (by simp) (by simp) (by simp)
  | _ => cases h; exact hinv.of_fields (by simp) (by simp) (by simp) (by simp)

theorem sampled_dataInv {s : State} (h : DataInv s) : DataInv (sampled s) :=
  h.of_fields (by simp) (by simp) (by unfold sampled; split <;> simp) (by simp)

theorem exec_dataInv {i : Instr} {s t : State} (hinv : DataInv s) (h : exec i s = .next t) : DataInv t := by
  by_cases hi : i = .seqReceive
  · subst hi
    obtain ⟨j, hj, hrow⟩ := execSeqReceive_next h
    exact exec_dataInv_of_ne (sampled_dataInv hinv) (ne_seqReceive_of_isReceiverRow hj) hrow
  · exact exec_dataInv_of_ne hinv hi h

/-! ### Which instruction a control state allows -/

/-- R214: the core's row is one that the table takes in that state of the sequencer. -/
theorem trigger_decodeTop (c : Ctx) : trigger c (decodeTop c.top) = true := by
  cases h : c.top <;> simp [decodeTop, trigger, h]

theorem trigger_decodeCmd {c : Ctx} (cmd : BitVec 4) (h : c.top = .app) : trigger c (decodeCmd cmd) = true := by
  unfold decodeCmd
  split_ifs <;> simp [trigger, h]

/-- R218, R223, R224: a write of the window stands for a row that the table takes in that state of the sequencer. -/
theorem trigger_of_decodeWrite {c : Ctx} {off : Nat} {w : Word} {i : Instr} (h : decodeWrite c.top off w = .ok i) :
    trigger c i = true := by
  unfold decodeWrite decodeCtrl at h
  split_ifs at h with _ _ happ <;> cases h
  case pos => rfl
  case pos => exact trigger_decodeCmd _ happ
  case neg => simp [trigger, happ]
  all_goals rfl

/-- R140: a receiver step has run a receiver row that the table takes in the state the sample left. -/
theorem execSeqReceive_next_trigger {s t : State} (htop : s.top = .receive) (h : exec .seqReceive s = .next t) :
    ∃ i, i ≠ .seqReceive ∧ trigger (ctxOf (sampled s)) i = true ∧ exec i (sampled s) = .next t := by
  change execSeqReceive s = .next t at h
  rw [execSeqReceive_eq] at h
  rw [ctxOf_sampled]
  cases hd : decodeReceiver (ctxOf s) (sampleLine s).1 with
  | ok i =>
    rw [hd] at h
    exact ⟨i, ne_seqReceive_of_isReceiverRow (isReceiverRow_of_decodeReceiver hd),
      trigger_of_decodeReceiver (c := ctxOf s) htop hd, h⟩
  | error r => rw [hd] at h; cases h

/-! ### The control registers -/

/-- R23, R97: inside a packet, with `OFFSET` at a byte of it. -/
theorem receiverInv_of_receiving {t : State} (htop : t.top = .receive) (hrxs : t.rxs = .receiving)
    (hoff : t.offset.toNat ≤ pktLen t.size + 4) : ReceiverInv t := by
  simp [ReceiverInv, ControlInv, OffsetInv, htop, hrxs, hoff]

theorem exec_receiverInv_of_ne {i : Instr} {s t : State} (hinv : ReceiverInv s) (htr : trigger (ctxOf s) i = true)
    (hi : i ≠ .seqReceive) (h : exec i s = .next t) : ReceiverInv t := by
  have hoff : s.rxs ≠ .receiving → s.offset.toNat = 0 := fun hrxs => by
    simpa only [OffsetInv, hrxs, if_false] using hinv.2
  cases i with
  | seqReceive => exact absurd rfl hi
  | rxIdlePoll =>
    cases h
    simp only [trigger, Bool.and_eq_true, decide_eq_true_eq] at htr
    obtain ⟨htop, hrxs⟩ : s.top = .receive ∧ s.rxs = .idle := htr
    exact ⟨by simp [ControlInv, htop], hoff (by simp [hrxs])⟩
  | sohPolling | stxPolling =>
    cases h
    simp only [trigger, Bool.and_eq_true, decide_eq_true_eq] at htr
    exact receiverInv_of_receiving htr.1 rfl (Nat.le_add_left _ _)
  | sohReceiving | stxReceiving =>
    cases h
    simp only [trigger, Bool.and_eq_true, decide_eq_true_eq] at htr
    exact receiverInv_of_receiving htr.1.1 htr.1.2 (Nat.le_add_left _ _)
  | eotReceiving =>
    cases h
    simp only [trigger, Bool.and_eq_true, beq_iff_eq] at htr
    exact ⟨rfl, htr.2⟩
  | rxIndex b | rxIndexInv b =>
    cases h
    simp only [trigger, Bool.and_eq_true, decide_eq_true_eq] at htr
    exact receiverInv_of_receiving htr.1.1 htr.1.2 (Nat.le_add_left _ _)
  | rxPayload b =>
    simp only [trigger, Bool.and_eq_true, decide_eq_true_eq] at htr
    obtain ⟨⟨htop, hrxs⟩, -, hlast⟩ := htr
    rw [execRxPayload_next h]
    refine receiverInv_of_receiving htop hrxs ?_
    change s.offset.toNat ≤ pktLen s.size + 2 at hlast
    have hadd : (s.offset + 1).toNat ≤ s.offset.toNat + 1 := Nat.mod_le _ _
    exact hadd.trans (by simp; omega)
  | rxCrcHi b =>
    cases h
    simp only [trigger, Bool.and_eq_true, decide_eq_true_eq] at htr
    exact receiverInv_of_receiving htr.1.1 htr.1.2 (Nat.mod_le _ _)
  | rxCrcLo b =>
    cases h
    simp only [trigger, Bool.and_eq_true, decide_eq_true_eq] at htr
    obtain ⟨htop, hrxs⟩ : s.top = .receive ∧ s.rxs = .receiving := htr.1
    exact receiverInv_of_receiving (by simp [htop]) (by simp [hrxs]) (Nat.zero_le _)
  | cmdCrc | cmdCheck | cmdTrailer => cases h; exact hinv.of_ctx (asCommand_keeps ctxOf (by simp [ctxOf]) (by simp [ctxOf]))
  | argWrite reg w => cases reg <;> cases h <;> exact hinv
  | seqCheck =>
    have htop : s.top = .check := of_decide_eq_true htr
    have hidle : s.rxs = .idle := by simpa only [ControlInv, htop] using hinv.1
    have hzero := hoff (by simp [hidle])
    rcases execSeqCheck_next h with rfl | rfl <;>
      exact ⟨by simp [ControlInv, hidle], by simp [OffsetInv, hidle, hzero]⟩
  | seqErase => cases h; exact ⟨by simp [ControlInv], by simp [OffsetInv]⟩
  | seqFinish =>
    cases h
    have htop : s.top = .finish := of_decide_eq_true htr
    have hdone : s.rxs = .done := by simpa only [ControlInv, htop] using hinv.1
    exact ⟨by simp [ControlInv, hdone], by simp [OffsetInv, hdone, hoff]⟩
  | _ => cases h; exact hinv.of_ctx (by simp [ctxOf, returning])

/-- The instruction of a control state that the table allows keeps the control registers in their invariant. -/
theorem exec_receiverInv {i : Instr} {s t : State} (hinv : ReceiverInv s) (htr : trigger (ctxOf s) i = true)
    (h : exec i s = .next t) : ReceiverInv t := by
  by_cases hi : i = .seqReceive
  · subst hi
    obtain ⟨j, hj, hjtr, hrow⟩ := execSeqReceive_next_trigger (of_decide_eq_true htr) h
    exact exec_receiverInv_of_ne (hinv.of_ctx (ctxOf_sampled s)) hjtr hj hrow
  · exact exec_receiverInv_of_ne hinv htr hi h

theorem exec_inv {i : Instr} {s t : State} (hinv : Inv s) (htr : trigger (ctxOf s) i = true)
    (h : exec i s = .next t) : Inv t := by
  obtain ⟨hdata, hreceiver⟩ := (inv_iff s).mp hinv
  exact (inv_iff t).mpr ⟨exec_dataInv hdata h, exec_receiverInv hreceiver htr h⟩

/-- Settles O53: a step runs an instruction that the table takes in its control state (`exec_inv`), or is a turn of another agent,
which writes nothing of the invariant but a byte of flash; a reset establishes the invariant over the flash it finds
(`applyReset_inv`), also after a step cut short (`exec_dataInv`). -/
theorem everyStepKeepsTheInvariant : Obligations.EveryStepKeepsTheInvariant := by
  unfold Obligations.EveryStepKeepsTheInvariant
  intro s t hinv h
  have hreset : ∀ {v : State}, DataInv v → Inv (applyReset v) := fun ⟨ha, hwf, _⟩ => applyReset_inv ha hwf
  have hdata : DataInv { s with turns := s.turns.tail } := ((inv_iff s).mp hinv).1
  have hturn : Inv { s with turns := s.turns.tail } := hinv
  obtain ⟨-, u, rfl, hcore | ⟨off, w, i, hd, hwrite⟩ | rfl | ⟨v, a, w, -, rfl⟩ | ⟨-, a, b, rfl⟩ | ⟨-, rfl⟩
    | ⟨r, -, v, rfl, ⟨-, hcut⟩ | ⟨off, w, i, -, hcut⟩ | rfl⟩⟩ := step_next h
  · exact exec_inv hturn (trigger_decodeTop (ctxOf s)) hcore
  · exact exec_inv hturn (trigger_of_decodeWrite (c := ctxOf s) hd) hwrite
  · exact hinv
  · exact hinv
  · obtain ⟨ha, hwf, hrest⟩ := hinv
    exact ⟨ha, Memory.wf_patch _ _ _ hwf, hrest⟩
  · exact hreset hdata
  · exact hreset (exec_dataInv hdata hcut)
  · exact hreset (exec_dataInv hdata hcut)
  · exact hreset hdata

end Sys2Proof.Machine
end

section
/-!
PROOF. SESSION_ERASE and PROGRAM (spec/42_flash_programmer.md R180 to R183). PROGRAM is said once by its three cases: past the region,
in an erased session, and with the session's erase still owed.
-/

namespace Sys2Proof.Machine

/-! ### SESSION_ERASE -/

/-- R180: with the sectors prepared, SESSION_ERASE goes by the answer of its erase. -/
theorem sessionErase_of_prepared {s : State} (hp : (flashPrepare (sectorFirst s.cfg) (sectorLast s.cfg) s).1 = .ok) :
    sessionErase s =
      andThen (flashErase (sectorFirst s.cfg) (sectorLast s.cfg) (flashPrepare (sectorFirst s.cfg) (sectorLast s.cfg) s).2)
        fun u => (.ok, setOk .ok { u with erased := true }) := by
  unfold sessionErase
  rw [andThen_ok hp]
  simp only [flashPrepare_fields]

/-- R11, R66: an erase of the region's sectors answered ok leaves the whole region erased. -/
theorem flashErase_erases_region {s u : State} (ha : admitted s.cfg = true) (hcfg : u.cfg = s.cfg) (hs : u.stuck = [])
    (hok : (flashErase (sectorFirst s.cfg) (sectorLast s.cfg) u).1 = .ok) {a : Nat} (h1 : s.cfg.imgStart ≤ a)
    (h2 : a < s.cfg.imgEnd) : (flashErase (sectorFirst s.cfg) (sectorLast s.cfg) u).2.flash.read a = 0xFF := by
  obtain ⟨-, -, -, -, hspace, -, -, -, -⟩ := (admitted_iff s.cfg).mp ha
  have hin := (inSectors_region ha (h2.trans_le hspace)).mpr ⟨h1, h2⟩
  refine flashErase_erases_sectors hs (by simpa using hok) ?_
  rw [hcfg]
  exact inSectors_eq_true.mp hin

/-- Settles O39: the three cases are `andThen_fail` and `andThen_ok` at the two requests; the region is erased by
`flashErase_erases_region`. -/
theorem sessionEraseOutcomes : Obligations.SessionEraseOutcomes := by
  unfold Obligations.SessionEraseOutcomes
  intro s p e
  have hexec : exec .sessionErase s = .next (returning (sessionErase s)) := rfl
  rw [hexec]
  refine ⟨fun hp => ?_, fun hp he => ?_, fun hp he => ⟨?_, fun ha hs a h1 h2 => ?_⟩⟩
  · unfold sessionErase
    rw [andThen_fail hp]
    rfl
  · rw [sessionErase_of_prepared hp, andThen_fail he]
    rfl
  · rw [sessionErase_of_prepared hp, andThen_ok he]
    rfl
  · exact flashErase_erases_region ha (by simp [p]) (by simpa [p] using hs) he h1 h2

/-- R180: SESSION_ERASE reports its answer in `OK`, and sets `ERASED` where it returns ok. -/
theorem sessionErase_reports (s : State) :
    (sessionErase s).2.ok = decide ((sessionErase s).1 = .ok)
    ∧ ((sessionErase s).1 = .ok → (sessionErase s).2.erased = true) := by
  obtain ⟨a, m, d, es, h, -⟩ := sessionErase_next s
  rw [h]
  exact ⟨rfl, fun ha => by simp [show a = .ok from ha]⟩

/-! ### The cases of PROGRAM -/

/-- R181: past the end of the region. -/
theorem program_of_past {n : Nat} {s : State} (h : s.cfg.imgEnd < s.cursor.toNat + clampLen s.cfg n) :
    program n s = failed s :=
  if_pos h

/-- R181: in an erased session. -/
theorem program_of_erased {n : Nat} {s : State} (hfit : s.cursor.toNat + clampLen s.cfg n ≤ s.cfg.imgEnd)
    (he : s.erased = true) : program n s = writeVerified (clampLen s.cfg n) s := by
  unfold program
  rw [if_neg (by omega), eraseIfOwed_eq, if_pos he, andThen_ok rfl]

/-- R180, R181: with the erase owed, PROGRAM fails as SESSION_ERASE does. -/
theorem program_of_owed_fail {n : Nat} {s : State} (hfit : s.cursor.toNat + clampLen s.cfg n ≤ s.cfg.imgEnd)
    (he : s.erased = false) (hans : (sessionErase s).1 = .fail) : program n s = sessionErase s := by
  have hok : (sessionErase s).2.ok = false := by simp [sessionErase_reports, hans]
  unfold program
  rw [if_neg (by omega), eraseIfOwed_eq, if_neg (by simp [he]), andThen_fail hans]
  generalize sessionErase s = r at hans hok
  obtain ⟨a, u⟩ := r
  cases u
  simp only at hans hok
  rw [hans, hok]
  rfl

/-- R180, R181: with the erase owed, PROGRAM goes on from where SESSION_ERASE ended. -/
theorem program_of_owed_ok {n : Nat} {s : State} (hfit : s.cursor.toNat + clampLen s.cfg n ≤ s.cfg.imgEnd)
    (he : s.erased = false) (hans : (sessionErase s).1 = .ok) :
    program n s = writeVerified (clampLen s.cfg n) (sessionErase s).2 := by
  unfold program
  rw [if_neg (by omega), eraseIfOwed_eq, if_neg (by simp [he]), andThen_ok hans]
  simp only [sessionErase_fields]

/-- Settles O40: the bound check comes before every request (`program_of_past`). -/
theorem programPastTheRegionFails : Obligations.ProgramPastTheRegionFails := by
  unfold Obligations.ProgramPastTheRegionFails
  intro s z h
  have hexec : exec (.program z) s = .next (returning (program (pktLen z) s)) := rfl
  rw [hexec, program_of_past h]
  rfl

/-! ### What a PROGRAM can change -/

/-- R181, R183: what PROGRAM leaves, from the prepare on: `OK` reports the answer, `CURSOR` stays on fail, `ERASED` stays, and only
the `len` bytes from `CURSOR` can change. -/
def WritesAtCursor (s : State) (len : Nat) (r : Answer × State) : Prop :=
  r.2.ok = decide (r.1 = .ok)
  ∧ (r.1 = .fail → r.2.cursor = s.cursor)
  ∧ r.2.erased = s.erased
  ∧ ∀ a, a < s.cursor.toNat ∨ s.cursor.toNat + len ≤ a → r.2.flash.read a = s.flash.read a

theorem failed_writesAtCursor {s u : State} {len : Nat} (hcursor : u.cursor = s.cursor) (herased : u.erased = s.erased)
    (hflash : ∀ a, a < s.cursor.toNat ∨ s.cursor.toNat + len ≤ a → u.flash.read a = s.flash.read a) :
    WritesAtCursor s len (failed u) :=
  ⟨rfl, fun _ => hcursor, herased, hflash⟩

theorem writeVerified_writesAtCursor (len : Nat) (s : State) : WritesAtCursor s len (writeVerified len s) := by
  have hwrite : ∀ u : State, u.cursor = s.cursor → u.flash = s.flash → ∀ a,
      a < s.cursor.toNat ∨ s.cursor.toNat + len ≤ a →
      (flashWrite u.cursor.toNat .pktbuf len u).2.flash.read a = s.flash.read a := fun u hc hf a h => by
    rw [flashWrite_keeps_outside _ _ _ _ (by rwa [hc]), hf]
  unfold writeVerified
  refine andThen_elim (P := WritesAtCursor s len)
    (fun _ => failed_writesAtCursor (by simp) (by simp) (by simp)) fun _ => ?_
  refine andThen_elim (fun _ => failed_writesAtCursor (by simp) (by simp) (hwrite _ (by simp) (by simp))) fun _ => ?_
  refine andThen_elim (fun _ => failed_writesAtCursor (by simp) (by simp) ?_) fun _ => ⟨by simp, by simp, by simp, ?_⟩
  · simp only [verify_fields]
    exact hwrite _ (by simp) (by simp)
  · simp only [setOk_fields, advanceCursor_fields, verify_fields]
    exact hwrite _ (by simp) (by simp)

/-- R181, R183: `OK` reports the answer of PROGRAM, and one that fails leaves `CURSOR`. -/
theorem program_reports (n : Nat) (s : State) :
    (program n s).2.ok = decide ((program n s).1 = .ok) ∧ ((program n s).1 = .fail → (program n s).2.cursor = s.cursor) := by
  by_cases hpast : s.cfg.imgEnd < s.cursor.toNat + clampLen s.cfg n
  · rw [program_of_past hpast]
    exact ⟨rfl, fun _ => rfl⟩
  · have hfit : s.cursor.toNat + clampLen s.cfg n ≤ s.cfg.imgEnd := by omega
    cases he : s.erased with
    | true =>
      rw [program_of_erased hfit he]
      obtain ⟨hok, hcursor, -⟩ := writeVerified_writesAtCursor (clampLen s.cfg n) s
      exact ⟨hok, hcursor⟩
    | false =>
      cases hans : (sessionErase s).1 with
      | fail =>
        rw [program_of_owed_fail hfit he hans]
        exact ⟨(sessionErase_reports s).1, by simp⟩
      | ok =>
        rw [program_of_owed_ok hfit he hans]
        obtain ⟨hok, hcursor, -⟩ := writeVerified_writesAtCursor (clampLen s.cfg n) (sessionErase s).2
        exact ⟨hok, by simpa using hcursor⟩

/-- R181, R182: in an erased session PROGRAM keeps `ERASED`, and every byte but those from `CURSOR` for the clamped length. -/
theorem program_erased_session (n : Nat) {s : State} (he : s.erased = true) :
    (program n s).2.erased = true ∧ ∀ a, a < s.cursor.toNat ∨ s.cursor.toNat + clampLen s.cfg n ≤ a →
      (program n s).2.flash.read a = s.flash.read a := by
  by_cases hpast : s.cfg.imgEnd < s.cursor.toNat + clampLen s.cfg n
  · rw [program_of_past hpast]
    exact ⟨he, fun _ _ => rfl⟩
  · rw [program_of_erased (by omega) he]
    obtain ⟨-, -, herased, hflash⟩ := writeVerified_writesAtCursor (clampLen s.cfg n) s
    exact ⟨herased.trans he, hflash⟩

/-- Settles O42: the answer and `CURSOR` are `program_reports`, an erased session's bytes `program_erased_session`, those outside the
region `program_sameOutsideRegion`. -/
theorem programFrame : Obligations.ProgramFrame := by
  unfold Obligations.ProgramFrame
  intro s z
  obtain ⟨hok, hcursor⟩ := program_reports (pktLen z) s
  refine ⟨returning (program (pktLen z) s), rfl, by simp [returning], ?_, fun he => (program_erased_session _ he).1,
    fun he => (program_erased_session _ he).2, fun ha hc => program_sameOutsideRegion z ha hc⟩
  cases hans : (program (pktLen z) s).1 with
  | ok => exact .inl ⟨by simp [returning, hans], by simp [returning, hok, hans]⟩
  | fail => exact .inr ⟨by simp [returning, hans], by simp [returning, hok, hans], hcursor hans⟩

/-! ### A PROGRAM that succeeds -/

/-- R68, R181: the compare of a range that holds the first bytes of `PKTBUF` matches. -/
theorem verify_of_written {len : Nat} {s : State} (h : s.flash.readRange s.cursor.toNat len = s.pktbuf.toList.take len) :
    verify len s = (.ok, { s with history := s.history ++ [.flashCompare s.cursor.toNat .pktbuf len true] }) := by
  rw [verify_eq, flashCompare_next, decide_eq_true (show _ = (bufBytes .pktbuf s).take len from h)]
  rfl

/-- R181: where the prepare and the write answer ok and no cell is stuck, the compare matches and `CURSOR` advances. -/
theorem writeVerified_of_ok {len : Nat} {s : State} (hlen : len ≤ 1024) (hs : s.stuck = [])
    (hp : (flashPrepare (sectorFirst s.cfg) (sectorLast s.cfg) s).1 = .ok)
    (hw : (flashWrite s.cursor.toNat .pktbuf len (flashPrepare (sectorFirst s.cfg) (sectorLast s.cfg) s).2).1 = .ok) :
    ∃ d cur, writeVerified len s = (.ok, { s with
        flash := s.flash.patch [] s.cursor.toNat (s.pktbuf.toList.take len), draws := d, cursor := cur, ok := true,
        history := s.history ++ [.flashPrepare (sectorFirst s.cfg) (sectorLast s.cfg) .ok,
          .flashWrite s.cursor.toNat .pktbuf len .ok, .flashCompare s.cursor.toNat .pktbuf len true] })
      ∧ Advanced s.cfg len s.cursor cur := by
  obtain ⟨d1, hprepared⟩ := flashPrepare_of_ok hp
  obtain ⟨d2, hwritten⟩ := flashWrite_of_ok hw
  unfold writeVerified
  rw [andThen_ok hp]
  simp only [flashPrepare_fields]
  rw [andThen_ok hw, hwritten, hprepared]
  rw [verify_of_written]
  · rw [andThen_ok rfl]
    obtain ⟨cur, d3, hadv, hcur⟩ := advanceCursor_next len { s with
      flash := s.flash.patch s.stuck s.cursor.toNat (s.pktbuf.toList.take len), draws := d2,
      history := s.history ++ [.flashPrepare (sectorFirst s.cfg) (sectorLast s.cfg) .ok]
        ++ [.flashWrite s.cursor.toNat .pktbuf len .ok] ++ [.flashCompare s.cursor.toNat .pktbuf len true] }
    refine ⟨d3, cur, ?_, hcur⟩
    refine (congrArg (fun t => (Answer.ok, setOk .ok t)) hadv).trans ?_
    simp [setOk, hs]
  · simp only [hs]
    exact Memory.readRange_patch_take _ _ (by simpa [bufBytes] using hlen)

/-- Settles O41: PROGRAM is its write part (`program_of_erased`), whose compare matches because the range reads back as written. -/
theorem programWritesAndAdvances : Obligations.ProgramWritesAndAdvances := by
  unfold Obligations.ProgramWritesAndAdvances
  intro s z len p ha hs he hfit hp hw
  have hlen : len ≤ 1024 := (clampLen_spec ha z).2.2
  have hbuf : len ≤ s.pktbuf.toList.length := by simpa using hlen
  obtain ⟨d, cur, hrun, hadv⟩ := writeVerified_of_ok hlen hs hp hw
  have hexec : exec (.program z) s = .next (returning (writeVerified len s)) :=
    congrArg (Host.Outcome.next ∘ returning) (program_of_erased hfit he)
  obtain ⟨-, -, -, -, hspace, -⟩ := (admitted_iff s.cfg).mp ha
  have hpage : 0 < s.cfg.writePage := Nat.lt_of_lt_of_le (by decide) (writePage_pos ha).1
  obtain ⟨hle, hlast, hmod⟩ := hadv.2 hpage (Nat.le_max_right _ _) (hfit.trans hspace)
  obtain ⟨-, -, hsum⟩ := hadv.bounds hpage (Nat.le_max_right _ _) (hfit.trans hspace)
  refine ⟨_, d, cur, by rw [hexec, hrun]; rfl, hsum, ⟨hle, hlast, fun h => hmod h (clampLen_spec ha z).1⟩, ?_, fun a h => ?_⟩
  · refine (Memory.readRange_eq_take_iff _ _ _ _).mp ?_
    exact Memory.readRange_patch_take _ _ hbuf
  · have hbytes := List.length_take_le len s.pktbuf.toList
    rw [Memory.read_patch, if_neg (by omega)]

/-! ### A PROGRAM that owes the session's erase -/

/-- A state with another value in `ret`, the model's own field, which no operation of the programmer reads. -/
def withRet (r : Ret) (s : State) : State :=
  { s with ret := r }

@[simp] theorem withRet_fields (r : Ret) (s : State) :
    (withRet r s).cfg = s.cfg ∧ (withRet r s).cursor = s.cursor ∧ (withRet r s).erased = s.erased
    ∧ (withRet r s).draws = s.draws :=
  ⟨rfl, rfl, rfl, rfl⟩

/-- An operation's result with another value in `ret`. -/
def withRetIn (r : Ret) (x : Answer × State) : Answer × State :=
  (x.1, withRet r x.2)

theorem andThen_withRet {r : Ret} {x y : Answer × State} {k : State → Answer × State} (hy : y = withRetIn r x)
    (hk : ∀ u, k (withRet r u) = withRetIn r (k u)) : andThen y k = withRetIn r (andThen x k) := by
  subst hy
  unfold andThen withRetIn
  split
  · exact hk x.2
  · rfl

theorem flashPrepare_withRet (r : Ret) (s0 s1 : Nat) (s : State) :
    flashPrepare s0 s1 (withRet r s) = withRetIn r (flashPrepare s0 s1 s) := by
  unfold flashPrepare drawPrepare
  simp only [withRet_fields]
  split <;> rfl

theorem flashWrite_withRet (r : Ret) (addr : Nat) (buf : Buf) (n : Nat) (s : State) :
    flashWrite addr buf n (withRet r s) = withRetIn r (flashWrite addr buf n s) := by
  have hdraw : drawWrite (withRet r s) = withRetIn r (drawWrite s) := by
    unfold drawWrite
    simp only [withRet_fields]
    split <;> rfl
  unfold flashWrite
  rw [hdraw]
  rcases drawWrite s with ⟨_ | _, u⟩
  · cases buf <;> rfl
  · rfl

theorem advanceCursor_withRet (r : Ret) (len : Nat) (s : State) :
    advanceCursor len (withRet r s) = withRet r (advanceCursor len s) := by
  unfold advanceCursor
  simp only [withRet_fields]
  split <;> rfl

theorem writeVerified_withRet (r : Ret) (len : Nat) (s : State) :
    writeVerified len (withRet r s) = withRetIn r (writeVerified len s) :=
  andThen_withRet (flashPrepare_withRet r _ _ s) fun u =>
  andThen_withRet (flashWrite_withRet r _ _ _ u) fun v =>
  andThen_withRet (x := verify len v) rfl fun w =>
  congrArg (fun t => (Answer.ok, setOk .ok t)) (advanceCursor_withRet r len w)

/-- Settles O43: the two cases are `program_of_owed_fail` and `program_of_owed_ok`; PROGRAM goes on alike from the state with the
answer of SESSION_ERASE in `ret` (`writeVerified_withRet`), where the session is erased (`program_of_erased`). -/
theorem programErasesWhereOwed : Obligations.ProgramErasesWhereOwed := by
  unfold Obligations.ProgramErasesWhereOwed
  intro s z he hfit
  change s.cursor.toNat + clampLen s.cfg (pktLen z) ≤ s.cfg.imgEnd at hfit
  have hexec : ∀ u : State, exec (.program z) u = .next (returning (program (pktLen z) u)) := fun _ => rfl
  refine ⟨returning (sessionErase s), rfl, fun hret => ?_, fun hret => ?_⟩
  · rw [hexec, program_of_owed_fail hfit he (Ret.answer.inj hret)]
  · have hans : (sessionErase s).1 = .ok := Ret.answer.inj hret
    have herased := program_of_erased (n := pktLen z) (s := withRet (.answer .ok) (sessionErase s).2)
      (by simpa using hfit) ((sessionErase_reports s).2 hans)
    simp only [withRet_fields, sessionErase_fields] at herased
    have hstart : returning (sessionErase s) = withRet (.answer .ok) (sessionErase s).2 := by rw [returning, hans]; rfl
    rw [hexec, hexec, program_of_owed_ok hfit he hans, hstart, herased, writeVerified_withRet]
    rfl

end Sys2Proof.Machine
end

section
/-!
PROOF. WRITE_TRAILER and CMD_TRAILER (spec/42_flash_programmer.md R185 to R188): how the rewriting of the trailer's erase unit can end
(`RewriteEnd`), with the events and the flash of each end.
-/

namespace Sys2Proof.Machine

/-! ### The unit in `SCRATCH` -/

/-- R185: byte by byte, the unit with the trailer half-word replaced. -/
theorem patchedUnit_getElem? {c : Config} {v : Half} {unit : List Byte} (hlen : unit.length = c.trailerUnit)
    (hu : 4 ≤ c.trailerUnit) {i : Nat} (hi : i < c.trailerUnit) :
    (patchedUnit c v unit)[i]? =
      if i = c.trailerUnit - 4 then some (loByte v) else if i = c.trailerUnit - 3 then some (hiByte v) else unit[i]? := by
  unfold patchedUnit
  by_cases hlo : i = c.trailerUnit - 4
  · rw [if_pos hlo, List.getElem?_set_ne (by omega), hlo, List.getElem?_set_self (by omega)]
  · rw [if_neg hlo]
    by_cases hhi : i = c.trailerUnit - 3
    · rw [if_pos hhi, hhi, List.getElem?_set_self (by simp; omega)]
    · rw [if_neg hhi, List.getElem?_set_ne (by omega), List.getElem?_set_ne (by omega)]

/-! ### How the rewriting can end -/

/-- R66, R185: flash with the trailer's erase unit erased. -/
def erasedUnit (s : State) : Memory :=
  s.flash.eraseSectors s.cfg s.stuck (trailerSector s.cfg) (trailerSector s.cfg)

/-- R185, R188: how the rewriting of the trailer's unit ends: at its first prepare, at its erase, at its second prepare, at its write,
or with all four answered ok; each with the answer, the flash and the events. The bytes of a failed erase or write are draws, so those
two ends fix no flash. -/
def RewriteEnd (s : State) (a : Answer) (m : Memory) (es : List Event) : Prop :=
  let ts := trailerSector s.cfg
  (a = .fail ∧ m = s.flash ∧ es = [.flashPrepare ts ts .fail])
  ∨ (a = .fail ∧ es = [.flashPrepare ts ts .ok, .flashErase ts ts .fail])
  ∨ (a = .fail ∧ m = erasedUnit s ∧ es = [.flashPrepare ts ts .ok, .flashErase ts ts .ok, .flashPrepare ts ts .fail])
  ∨ (a = .fail ∧ es = [.flashPrepare ts ts .ok, .flashErase ts ts .ok, .flashPrepare ts ts .ok,
      .flashWrite (trailerBase s.cfg) .scratch s.cfg.trailerUnit .fail])
  ∨ (a = .ok ∧ m = (erasedUnit s).patch s.stuck (trailerBase s.cfg) (s.scratch.take s.cfg.trailerUnit)
      ∧ es = [.flashPrepare ts ts .ok, .flashErase ts ts .ok, .flashPrepare ts ts .ok,
        .flashWrite (trailerBase s.cfg) .scratch s.cfg.trailerUnit .ok])

/-- R185: a result that is one of these ends: its answer and its flash, with the events it adds to the history. -/
def EndsRewrite (s : State) (r : Answer × State) : Prop :=
  ∃ es, r.2.history = s.history ++ es ∧ RewriteEnd s r.1 r.2.flash es

/-- R66, R185: the erase of the prepared sector, answered ok, leaves the unit erased. -/
theorem flashErase_prepared_unit {s : State} {s0 s1 : Nat} (he : (drawErase (flashPrepare s0 s1 s).2).1 = .ok) :
    (flashErase (trailerSector s.cfg) (trailerSector s.cfg) (flashPrepare s0 s1 s).2).2.flash = erasedUnit s := by
  simp [flashErase_flash_of_ok he, erasedUnit]

theorem rewriteUnit_end (s : State) : EndsRewrite s (rewriteUnit s) := by
  unfold rewriteUnit
  refine andThen_elim (P := EndsRewrite s) (fun hp => ?_) fun hp => andThen_elim (fun he => ?_) fun he =>
    andThen_elim (fun hq => ?_) fun hq => andThen_elim (fun hw => ?_) fun hw => ?_
  all_goals
    simp only [flashPrepare_answer, flashErase_answer, flashWrite_answer, flashPrepare_fields, flashErase_fields] at *
  · refine ⟨_, ?_, .inl ⟨rfl, by simp, rfl⟩⟩
    simp [flashPrepare_history, hp]
  · refine ⟨_, ?_, .inr (.inl ⟨rfl, rfl⟩)⟩
    simp [flashPrepare_history, flashErase_history, hp, he]
  · refine ⟨_, ?_, .inr (.inr (.inl ⟨rfl, by simp [flashErase_prepared_unit he], rfl⟩))⟩
    simp [flashPrepare_history, flashErase_history, hp, he, hq]
  · refine ⟨_, ?_, .inr (.inr (.inr (.inl ⟨rfl, rfl⟩)))⟩
    simp [flashPrepare_history, flashErase_history, flashWrite_history, hp, he, hq, hw]
  · refine ⟨_, ?_, .inr (.inr (.inr (.inr ⟨rfl, ?_, rfl⟩)))⟩
    · simp [flashPrepare_history, flashErase_history, flashWrite_history, hp, he, hq, hw]
    · simp [flashWrite_flash_of_ok hw, flashErase_prepared_unit he, bufBytes]

/-- R187: an end with answer ok is the one with all four requests answered ok. -/
theorem RewriteEnd.of_ok {s : State} {m : Memory} {es : List Event} (h : RewriteEnd s .ok m es) :
    m = (erasedUnit s).patch s.stuck (trailerBase s.cfg) (s.scratch.take s.cfg.trailerUnit)
    ∧ es = [.flashPrepare (trailerSector s.cfg) (trailerSector s.cfg) .ok,
      .flashErase (trailerSector s.cfg) (trailerSector s.cfg) .ok,
      .flashPrepare (trailerSector s.cfg) (trailerSector s.cfg) .ok,
      .flashWrite (trailerBase s.cfg) .scratch s.cfg.trailerUnit .ok] := by
  simpa [RewriteEnd] using h

/-- R188: what the events of a failed prepare say of the flash. -/
theorem RewriteEnd.flash_of_prepare_fail {s : State} {a : Answer} {m : Memory} {s0 s1 : Nat} {es : List Event}
    (h : RewriteEnd s a m es) :
    (es = [.flashPrepare s0 s1 .fail] → a = .fail ∧ m = s.flash)
    ∧ (es = [.flashPrepare s0 s1 .ok, .flashErase s0 s1 .ok, .flashPrepare s0 s1 .fail] →
        a = .fail ∧ m = erasedUnit s) := by
  obtain ⟨rfl, rfl, rfl⟩ | ⟨rfl, rfl⟩ | ⟨rfl, rfl, rfl⟩ | ⟨rfl, rfl⟩ | ⟨rfl, rfl, rfl⟩ := h <;> simp

/-! ### WRITE_TRAILER -/

/-- R34, R185: what WRITE_TRAILER adds to the history, after the reads of the unit, and the end it comes to. -/
theorem writeTrailer_end (v : Half) (s : State) :
    ∃ es, (writeTrailer v s).2.history = s.history ++ readEvents s (trailerBase s.cfg) s.cfg.trailerUnit ++ es
      ∧ RewriteEnd (copyUnit v s) (writeTrailer v s).1 (writeTrailer v s).2.flash es :=
  rewriteUnit_end (copyUnit v s)

/-- R34, R185: WRITE_TRAILER reports its answer in `OK` and leaves the patched unit in `SCRATCH`. -/
theorem writeTrailer_reports (v : Half) (s : State) :
    (writeTrailer v s).2.ok = decide ((writeTrailer v s).1 = .ok)
    ∧ (writeTrailer v s).2.scratch
      = patchedUnit s.cfg v (s.flash.readRange (trailerBase s.cfg) s.cfg.trailerUnit) := by
  obtain ⟨a, m, d, es, h, -⟩ := writeTrailer_next v s
  rw [h]
  exact ⟨rfl, rfl⟩

/-- Settles O44: the answer and `SCRATCH` are `writeTrailer_reports` (byte by byte, `patchedUnit_getElem?`), the events of an ok
those of `RewriteEnd.of_ok`, and the bytes outside the unit are in `writeTrailer_next`. -/
theorem trailerPatchRequests : Obligations.TrailerPatchRequests := by
  unfold Obligations.TrailerPatchRequests
  intro s v ha ts base
  obtain ⟨hok, hscratch⟩ := writeTrailer_reports v s
  obtain ⟨es, hhist, hend⟩ := writeTrailer_end v s
  obtain ⟨-, -, -, -, -, hu, -⟩ := (admitted_iff s.cfg).mp ha
  refine ⟨returning (writeTrailer v s), rfl, by simp [returning], ?_, ?_, fun i hi => ?_, fun hret => ?_, fun a hsp hout => ?_⟩
  · cases hans : (writeTrailer v s).1 with
    | ok => exact .inl ⟨by simp [returning, hans], by simp [returning, hok, hans]⟩
    | fail => exact .inr ⟨by simp [returning, hans], by simp [returning, hok, hans]⟩
  · simp [returning, hscratch, patchedUnit_length]
  · have hbyte := patchedUnit_getElem? (v := v) (unit := s.flash.readRange base s.cfg.trailerUnit) (by simp) hu hi
    rw [Memory.readRange_getElem? _ _ _ _ hi] at hbyte
    refine ((congrArg (fun l : List Byte => l[i]?) hscratch).trans hbyte).trans ?_
    split_ifs <;> rfl
  · rw [Ret.answer.inj hret] at hend
    exact hhist.trans (congrArg _ hend.of_ok.2)
  · obtain ⟨_, m, d, _, h, -, hkeeps, -⟩ := writeTrailer_next v s
    simpa [returning, h] using hkeeps ha a hsp hout

/-- R62, R185: the trailer's two bytes lie in its erase unit, low byte first. -/
theorem trailerAddrs_in_unit {c : Config} (ha : admitted c = true) :
    trailerBase c ≤ trailerLoAddr c ∧ trailerLoAddr c < trailerHiAddr c ∧ trailerHiAddr c < c.imgEnd := by
  obtain ⟨-, -, -, -, -, hu, -⟩ := (admitted_iff c).mp ha
  have hroom := (imgEnd_mod ha).2
  unfold trailerBase trailerLoAddr trailerHiAddr
  omega

/-- R187: the flash after ok, where no cell is stuck: the erased unit with the patched one written back. -/
theorem writeTrailer_flash_of_ok {v : Half} {s : State} (hs : s.stuck = []) (hans : (writeTrailer v s).1 = .ok) :
    (writeTrailer v s).2.flash = (erasedUnit s).patch [] (trailerBase s.cfg)
      (patchedUnit s.cfg v (s.flash.readRange (trailerBase s.cfg) s.cfg.trailerUnit)) := by
  obtain ⟨es, -, hend⟩ := writeTrailer_end v s
  rw [hans] at hend
  rw [hend.of_ok.1]
  simp only [copyUnit_fields, copyUnit_scratch, hs]
  rw [List.take_of_length_le (by simp [patchedUnit_length])]
  simp only [erasedUnit, copyUnit_fields]

/-- R187: after ok the trailer's two bytes are those of its value and every other byte is as it was, where no cell is stuck. -/
theorem writeTrailer_read_of_ok {v : Half} {s : State} (ha : admitted s.cfg = true) (hs : s.stuck = [])
    (hans : (writeTrailer v s).1 = .ok) {a : Nat} (hspace : a < Config.addrSpace) :
    (writeTrailer v s).2.flash.read a =
      if a = trailerLoAddr s.cfg then loByte v else if a = trailerHiAddr s.cfg then hiByte v else s.flash.read a := by
  obtain ⟨-, -, -, -, -, hu, -⟩ := (admitted_iff s.cfg).mp ha
  have hend := (trailerBase_add ha).2
  rw [writeTrailer_flash_of_ok hs hans]
  by_cases hin : trailerBase s.cfg ≤ a ∧ a < s.cfg.imgEnd
  · obtain ⟨i, rfl⟩ := Nat.exists_eq_add_of_le hin.1
    have hi : i < s.cfg.trailerUnit := by omega
    have hbyte := patchedUnit_getElem? (v := v) (unit := s.flash.readRange (trailerBase s.cfg) s.cfg.trailerUnit)
      (by simp) hu hi
    rw [Memory.readRange_getElem? _ _ _ _ hi, ← apply_ite some, ← apply_ite some] at hbyte
    have hlo : trailerBase s.cfg + i = trailerLoAddr s.cfg ↔ i = s.cfg.trailerUnit - 4 := by
      unfold trailerLoAddr
      omega
    have hhi : trailerBase s.cfg + i = trailerHiAddr s.cfg ↔ i = s.cfg.trailerUnit - 3 := by
      unfold trailerHiAddr
      omega
    rw [Memory.read_patch_add _ _ _ (by simpa [patchedUnit_length] using hi)]
    simpa only [hlo, hhi] using List.getElem_of_getElem? hbyte |>.2
  · have hout : ¬ inSectors s.cfg (trailerSector s.cfg) (trailerSector s.cfg) a = true :=
      mt (inSectors_trailer ha hspace).mp hin
    have hne : a ≠ trailerLoAddr s.cfg ∧ a ≠ trailerHiAddr s.cfg := by
      unfold trailerLoAddr trailerHiAddr
      omega
    rw [Memory.read_patch, if_neg (by simp [patchedUnit_length]; omega), if_neg hne.1, if_neg hne.2, erasedUnit,
      Memory.read_eraseSectors, if_neg fun h => hout h.1]

/-- Settles O45: the bytes after ok are `writeTrailer_read_of_ok`; the data span ends below the trailer, so its checksum is that of
the same bytes. -/
theorem trailerPatchPreservesTheRest : Obligations.TrailerPatchPreservesTheRest := by
  unfold Obligations.TrailerPatchPreservesTheRest
  intro s t v ha hs hexec hret
  cases hexec
  have hread := @writeTrailer_read_of_ok v s ha hs (Ret.answer.inj hret)
  obtain ⟨-, -, -, -, hspace, -⟩ := (admitted_iff s.cfg).mp ha
  obtain ⟨-, hlt, hend⟩ := trailerAddrs_in_unit ha
  have hcfg : (returning (writeTrailer v s)).cfg = s.cfg := by simp [returning]
  have hkeeps : ∀ a, a < Config.addrSpace → a ≠ trailerLoAddr s.cfg → a ≠ trailerHiAddr s.cfg →
      (returning (writeTrailer v s)).flash.read a = s.flash.read a := fun a hsp hlo hhi =>
    (hread hsp).trans (by rw [if_neg hlo, if_neg hhi])
  refine ⟨?_, hkeeps, ?_⟩
  · have hlo : (returning (writeTrailer v s)).flash.read (trailerLoAddr s.cfg) = loByte v :=
      (hread (by omega)).trans (if_pos rfl)
    have hhi : (returning (writeTrailer v s)).flash.read (trailerHiAddr s.cfg) = hiByte v :=
      (hread (by omega)).trans (by rw [if_neg hlt.ne', if_pos rfl])
    rw [trailerOf, hcfg, hlo, hhi, trailerValue_bytes]
  · rw [imageCrc, hcfg]
    refine congrArg crcOf (Memory.readRange_congr fun a h1 h2 => hkeeps a ?_ ?_ ?_) <;>
    · unfold dataLen at h2
      unfold trailerLoAddr trailerHiAddr at *
      omega

/-- R188: an erased unit holds 0xFF in every byte, where no cell is stuck. -/
theorem erasedUnit_read {s : State} (ha : admitted s.cfg = true) (hs : s.stuck = []) {a : Nat} (h1 : trailerBase s.cfg ≤ a)
    (h2 : a < s.cfg.imgEnd) : (erasedUnit s).read a = 0xFF := by
  obtain ⟨-, -, -, -, hspace, -⟩ := (admitted_iff s.cfg).mp ha
  have hin := (inSectors_trailer ha (h2.trans_le hspace)).mpr ⟨h1, h2⟩
  rw [erasedUnit, Memory.read_eraseSectors, if_pos ⟨hin, by simp [hs]⟩]
  rfl

/-- Settles O46: the events tell the end (`RewriteEnd.flash_of_prepare_fail`): after the first prepare the old flash, after the second
the erased unit (`erasedUnit_read`). -/
theorem trailerPatchFailures : Obligations.TrailerPatchFailures := by
  unfold Obligations.TrailerPatchFailures
  intro s t v ha hs hexec ts reads
  cases hexec
  obtain ⟨hok, -⟩ := writeTrailer_reports v s
  obtain ⟨es, hhist, hend⟩ := writeTrailer_end v s
  obtain ⟨hfirst, hsecond⟩ := hend.flash_of_prepare_fail (s0 := ts) (s1 := ts)
  have hcfg : (returning (writeTrailer v s)).cfg = s.cfg := by simp [returning]
  obtain ⟨hbase, hlt, hlast⟩ := trailerAddrs_in_unit ha
  refine ⟨fun h => ?_, fun h => ?_⟩
  · obtain ⟨hans, hflash⟩ := hfirst (List.append_cancel_left (hhist.symm.trans h))
    have hflash' : (returning (writeTrailer v s)).flash = s.flash := hflash
    exact ⟨hflash', by rw [trailerOf, hcfg, hflash']; rfl, hok.trans (by simp [hans])⟩
  · obtain ⟨hans, hflash⟩ := hsecond (List.append_cancel_left (hhist.symm.trans h))
    have hunit : ∀ a, trailerBase s.cfg ≤ a → a < s.cfg.imgEnd →
        (returning (writeTrailer v s)).flash.read a = 0xFF := fun a h1 h2 =>
      (congrArg (fun m : Memory => m.read a) hflash).trans (erasedUnit_read (s := copyUnit v s) ha hs h1 h2)
    refine ⟨?_, hok.trans (by simp [hans]), hunit⟩
    rw [trailerOf, hcfg, hunit _ hbase (hlt.trans hlast), hunit _ (hbase.trans hlt.le) hlast]
    rfl

/-! ### CMD_TRAILER -/

/-- Settles O30: in `APP` the command is WRITE_TRAILER with `CMD_ERR` cleared (`asCommand_of_app`), which leaves `ret`, but for
what WRITE_TRAILER run by itself returns there. -/
theorem cmdTrailerPatchesWithArg0 : Obligations.CmdTrailerPatchesWithArg0 := by
  unfold Obligations.CmdTrailerPatchesWithArg0
  intro s htop
  have haccepted : exec .cmdTrailer s = .next (writeTrailer (trailerOperand s.arg0) (clearCmdErr s)).2 :=
    congrArg Host.Outcome.next (asCommand_of_app _ htop)
  have hret : (writeTrailer (trailerOperand s.arg0) (clearCmdErr s)).2.ret = s.ret := by simp
  refine ⟨returning (writeTrailer (trailerOperand s.arg0) (clearCmdErr s)), rfl, ?_, by simpa [returning] using htop⟩
  rw [haccepted, ← hret]
  rfl

end Sys2Proof.Machine
end

section
/-!
PROOF. IS_APP_VALID and the rows that call it or the programmer: CHECK, ERASE, FINISH and CMD_CHECK (spec/43_boot_decision.md
R210 to R215, R221, R225). IS_APP_VALID is said once by its two paths; what it answers is whether the region carries a valid
image.
-/

namespace Sys2Proof.Machine

/-! ### The comparator -/

/-- IS_APP_VALID run by itself: its effect, and its answer returned (notes/assumptions/12.md). -/
def returningVerdict (r : Bool × State) : State :=
  { r.2 with ret := .verdict r.1 }

theorem exec_isAppValid (s : State) : exec .isAppValid s = .next (returningVerdict (isAppValid s)) := rfl

theorem readTrailer_reads (s : State) :
    readTrailer s =
      (trailerOf s, { s with trailerRd := trailerOf s, history := s.history ++ trailerEvents s }) := by
  have hevents : s.history ++ trailerEvents s
      = (memRead (trailerHiAddr s.cfg) (memRead (trailerLoAddr s.cfg) s).2).2.history := by
    simp [trailerEvents]
  rw [hevents]
  rfl

/-- R210: the fast path, of an erased trailer. -/
theorem isAppValid_of_erased {s : State} (h : trailerOf s = 0xFFFF) :
    isAppValid s = (false, { s with
      trailerRd := 0xFFFF, appValid := false, history := s.history ++ trailerEvents s }) := by
  rw [← h, isAppValid_eq, readTrailer_reads]
  exact if_pos h

/-- R210: the full path, of any other trailer. -/
theorem isAppValid_of_written {s : State} (h : trailerOf s ≠ 0xFFFF) :
    isAppValid s = (decide (imageCrc s = trailerOf s), { s with
      trailerRd := trailerOf s, result := imageCrc s, appValid := decide (imageCrc s = trailerOf s),
      history := s.history ++ trailerEvents s ++ readEvents s s.cfg.imgStart (dataLen s.cfg) }) := by
  rw [isAppValid_eq, readTrailer_reads]
  exact if_neg h

theorem isAppValid_verdict (s : State) : (isAppValid s).1 = true ↔ ValidImage s := by
  unfold ValidImage
  by_cases h : trailerOf s = 0xFFFF
  · simp [isAppValid_of_erased h, h]
  · simpa [isAppValid_of_written h] using fun _ => h

@[simp] theorem isAppValid_appValid (s : State) : (isAppValid s).2.appValid = (isAppValid s).1 := by
  by_cases h : trailerOf s = 0xFFFF
  · rw [isAppValid_of_erased h]
  · rw [isAppValid_of_written h]

/-- R210, R221: the comparator's events are reads. -/
theorem isAppValid_history (s : State) :
    ∃ es, (isAppValid s).2.history = s.history ++ es ∧ .bootApp ∉ es := by
  by_cases h : trailerOf s = 0xFFFF
  · exact ⟨trailerEvents s, by rw [isAppValid_of_erased h], by simp [trailerEvents]⟩
  · refine ⟨trailerEvents s ++ readEvents s s.cfg.imgStart (dataLen s.cfg), ?_, by simp [trailerEvents, readEvents]⟩
    rw [isAppValid_of_written h, List.append_assoc]

/-- Settles O47: the two paths, `isAppValid_of_erased` and `isAppValid_of_written`. -/
theorem comparatorDecidesByTheTrailer : Obligations.ComparatorDecidesByTheTrailer := by
  unfold Obligations.ComparatorDecidesByTheTrailer
  intro s
  rw [exec_isAppValid]
  refine ⟨fun h => ?_, fun h => ?_⟩
  · rw [isAppValid_of_erased h]
    rfl
  · rw [isAppValid_of_written h]
    rfl

/-- Settles O29: in `APP` the command is the comparator with `CMD_ERR` cleared (`asCommand_of_app`), which leaves `ret` and
`TOP`, and whose events are reads (`isAppValid_history`). -/
theorem cmdCheckRunsTheComparator : Obligations.CmdCheckRunsTheComparator := by
  unfold Obligations.CmdCheckRunsTheComparator
  intro s htop
  have haccepted : exec .cmdCheck s = .next (isAppValid (clearCmdErr s)).2 :=
    congrArg Host.Outcome.next (asCommand_of_app _ htop)
  have hret : (isAppValid (clearCmdErr s)).2.ret = s.ret := by simp
  refine ⟨returningVerdict (isAppValid (clearCmdErr s)), rfl, ?_, ?_, isAppValid_history (clearCmdErr s)⟩
  · rw [haccepted, ← hret]
    rfl
  · simpa [returningVerdict] using htop

/-! ### The sequencer's steps -/

/-- R211: a valid image is handed off, any other opens an update. -/
theorem exec_seqCheck (s : State) :
    exec .seqCheck s = .next (if (isAppValid s).1 then { emit .bootApp (isAppValid s).2 with top := .app }
      else { (isAppValid s).2 with top := .erase }) := by
  simp only [exec, execSeqCheck]
  rcases isAppValid s with ⟨_ | _, t⟩ <;> rfl

/-- Settles O48: `APP_VALID` holds what the comparator answers (`isAppValid_appValid`), and by that answer the step goes on. -/
theorem checkStepDecides : Obligations.CheckStepDecides := by
  unfold Obligations.CheckStepDecides
  intro s
  have hret : (isAppValid s).2.ret = s.ret := by simp
  refine ⟨returningVerdict (isAppValid s), rfl, fun h => ?_, fun h => ?_⟩
  · rw [exec_seqCheck, if_pos ((isAppValid_appValid s).symm.trans h), ← hret]
    rfl
  · rw [exec_seqCheck, if_neg (by simpa [returningVerdict] using h), ← hret]
    rfl

/-- Settles O49: the row is SESSION_ERASE from `sessionStart`, which leaves `ret`. -/
theorem eraseStepOpensASession : Obligations.EraseStepOpensASession := by
  unfold Obligations.EraseStepOpensASession
  intro s
  have hret : (sessionErase (sessionStart s)).2.ret = s.ret := by simp
  refine ⟨returning (sessionErase (sessionStart s)), rfl, ?_⟩
  rw [← hret]
  rfl

/-- R215: the state in which the FINISH step patches the trailer: the image checksum is read, and stands in `RESULT`. -/
def withImageResult (s : State) : State :=
  { s with
    result := imageCrc s,
    history := s.history ++ readEvents s s.cfg.imgStart (dataLen s.cfg) }

/-- R215: the FINISH step is WRITE_TRAILER of the image checksum, and the request of a restart. -/
theorem exec_seqFinish (s : State) :
    exec .seqFinish s = .next
      { setResetReq (emit .resetReq (writeTrailer (imageCrc s) (withImageResult s)).2) with top := .restart } := rfl

/-- Settles O50: the row is `exec_seqFinish`, and WRITE_TRAILER leaves `ret`. -/
theorem finishStepPatchesAndRestarts : Obligations.FinishStepPatchesAndRestarts := by
  unfold Obligations.FinishStepPatchesAndRestarts
  intro s
  have hret : (writeTrailer (imageCrc s) (withImageResult s)).2.ret = s.ret := by simp [withImageResult]
  refine ⟨returning (writeTrailer (imageCrc s) (withImageResult s)), rfl, ?_⟩
  rw [exec_seqFinish, ← hret]
  rfl

/-! ### From FINISH to APP -/

theorem ValidImage.of_fields {s t : State} (h : ValidImage s) (hcfg : t.cfg = s.cfg) (hflash : t.flash = s.flash) :
    ValidImage t := by
  simpa only [ValidImage, trailerOf, imageCrc, hcfg, hflash] using h

/-- R187, R225: the image checksum, written into the trailer, makes the image valid, unless it is 0xFFFF. -/
theorem writeTrailer_leaves_validImage {s : State} {v : Half} (ha : admitted s.cfg = true) (hs : s.stuck = [])
    (hcrc : imageCrc s = v) (hv : v ≠ 0xFFFF) (hok : (writeTrailer v s).2.ok = true) :
    ValidImage (writeTrailer v s).2 := by
  have hans : (writeTrailer v s).1 = .ok := of_decide_eq_true ((writeTrailer_reports v s).1.symm.trans hok)
  obtain ⟨htrailer, -, hsame⟩ :=
    trailerPatchPreservesTheRest s (returning (writeTrailer v s)) v ha hs rfl (congrArg Ret.answer hans)
  have hvalid : ValidImage (returning (writeTrailer v s)) :=
    ⟨by rw [htrailer]; exact hv, by rw [htrailer, hsame, hcrc]⟩
  exact hvalid.of_fields rfl rfl

theorem core_run_succ {s t : State} (k : Nat) (h : step s = .next t) :
    Host.Core.run Sys2Proof.core (k + 1) s = Host.Core.run Sys2Proof.core k t := by
  have hcore : Sys2Proof.core.step s = .next t := h
  simp only [Host.Core.run, hcore]

/-- R215, R225: the core's turn in `FINISH` requests a restart, and leaves a valid image where its trailer patch succeeded. -/
theorem step_core_finishes {s : State} {rest : List Turn} (ha : admitted s.cfg = true) (ht : s.turns = .core :: rest)
    (htop : s.top = .finish) :
    ∃ t, step s = .next t ∧ t.cfg = s.cfg ∧ t.turns = rest ∧ t.history.getLast? = some .resetReq
      ∧ (s.stuck = [] → imageCrc s ≠ 0xFFFF → t.ok = true → ValidImage t) := by
  have hrow : decodeTop s.top = .seqFinish := congrArg decodeTop htop
  have hstep : step s = exec .seqFinish { s with turns := rest } := by rw [step_core ha ht, hrow]
  refine ⟨_, hstep.trans (exec_seqFinish _), ?_, ?_, ?_, fun hs hcrc hok => ?_⟩
  · simp [withImageResult]
  · simp [withImageResult]
  · simp
  · exact (writeTrailer_leaves_validImage (s := withImageResult { s with turns := rest }) ha hs rfl
      (v := imageCrc { s with turns := rest }) hcrc (by simpa using hok)).of_fields (by simp) (by simp)

/-- R211, R225: the core's turn in `CHECK`, over a valid image, ends in `APP`. -/
theorem step_core_boots {s : State} {rest : List Turn} (ha : admitted s.cfg = true) (ht : s.turns = .core :: rest)
    (htop : s.top = .check) (hvalid : ValidImage s) :
    ∃ t, step s = .next t ∧ t.top = .app ∧ t.appValid = true ∧ t.history.getLast? = some .bootApp := by
  have hverdict : (isAppValid { s with turns := rest }).1 = true := (isAppValid_verdict _).mpr hvalid
  have hrow : decodeTop s.top = .seqCheck := congrArg decodeTop htop
  have hstep : step s = .next { emit .bootApp (isAppValid { s with turns := rest }).2 with top := .app } := by
    rw [step_core ha ht, hrow, exec_seqCheck, if_pos hverdict]
  exact ⟨_, hstep, rfl, (isAppValid_appValid _).trans hverdict, by simp⟩

/-- Settles O59: the FINISH step leaves a valid image (`step_core_finishes`), the reset keeps flash, and the CHECK step boots
the image (`step_core_boots`). -/
theorem finishedImageBootsAfterReset : Obligations.FinishedImageBootsAfterReset := by
  unfold Obligations.FinishedImageBootsAfterReset
  intro s rest ha hs htop ht hcrc
  obtain ⟨t, hfinish, hcfg, hturns, hlast, hvalid⟩ := step_core_finishes ha ht htop
  have hat : admitted t.cfg = true := by rw [hcfg]; exact ha
  refine ⟨t, hfinish, hlast, fun hok => ?_⟩
  have hreset := step_reset hat hturns
  have hkept : ValidImage (applyReset { t with turns := .core :: rest }) := (hvalid hs hcrc hok).of_fields rfl rfl
  obtain ⟨u, hcheck, hboot⟩ := step_core_boots (s := applyReset { t with turns := .core :: rest }) hat rfl rfl hkept
  refine ⟨u, ?_, hboot⟩
  rw [core_run_succ 2 hfinish, core_run_succ 1 hreset, core_run_succ 0 hcheck]
  rfl

end Sys2Proof.Machine
end

section
/-!
PROOF. What it takes to enter `APP` and to set `APP_VALID` (spec/43_boot_decision.md R226): of all instructions only the CHECK
step enters `APP`, and only the comparator sets the flag, both by its answer.
-/

namespace Sys2Proof.Machine

/-- R226: `t` is in `APP`, or has `APP_VALID` set, only where `s` already was or had, or where the region of `t` is valid; one
that enters `APP` ends its history in `BootApp`. -/
def BootsOnlyValid (s t : State) : Prop :=
  (t.top = .app → s.top = .app ∨ ValidImage t ∧ t.history.getLast? = some .bootApp)
  ∧ (t.appValid = true → s.appValid = true ∨ ValidImage t)

theorem bootsOnlyValid_of_kept {s t : State} (htop : t.top = s.top) (hvalid : t.appValid = s.appValid) :
    BootsOnlyValid s t :=
  ⟨fun h => .inl (htop.symm.trans h), fun h => .inl (hvalid.symm.trans h)⟩

theorem bootsOnlyValid_of_ne_app {s t : State} (htop : t.top ≠ .app)
    (hvalid : t.appValid = true → s.appValid = true ∨ ValidImage t) : BootsOnlyValid s t :=
  ⟨fun h => absurd h htop, hvalid⟩

/-- R210: where the comparator sets `APP_VALID`, it has read the valid image it leaves. -/
theorem isAppValid_bootsOnlyValid (s : State) : BootsOnlyValid s (isAppValid s).2 := by
  refine ⟨fun h => .inl (by simpa using h), fun h => .inr ?_⟩
  have hvalid : ValidImage s := (isAppValid_verdict s).mp (by simpa using h)
  exact hvalid.of_fields (by simp) (by simp)

/-- R211: the CHECK step enters `APP` over a valid image only. -/
theorem seqCheck_bootsOnlyValid {s t : State} (h : exec .seqCheck s = .next t) : BootsOnlyValid s t := by
  rw [exec_seqCheck] at h
  cases hv : (isAppValid s).1 with
  | true =>
    rw [hv] at h
    cases h
    have hvalid : ValidImage { emit .bootApp (isAppValid s).2 with top := .app } :=
      ((isAppValid_verdict s).mp hv).of_fields (by simp) (by simp)
    exact ⟨fun _ => .inr ⟨hvalid, by simp⟩, fun _ => .inr hvalid⟩
  | false =>
    rw [hv] at h
    cases h
    exact bootsOnlyValid_of_ne_app (by simp) fun h => by simp [hv] at h

theorem exec_bootsOnlyValid_of_ne {i : Instr} {s t : State} (hi : i ≠ .seqReceive) (h : exec i s = .next t) :
    BootsOnlyValid s t := by
  cases i with
  | seqReceive => exact absurd rfl hi
  | rxPayload b => rw [execRxPayload_next h]; exact bootsOnlyValid_of_kept (by simp) (by simp)
  | argWrite reg w => cases reg <;> cases h <;> exact bootsOnlyValid_of_kept rfl rfl
  | cmdCrc | cmdTrailer =>
    cases h
    exact bootsOnlyValid_of_kept (asCommand_keeps State.top (by simp) (by simp))
      (asCommand_keeps State.appValid (by simp) (by simp))
  | cmdCheck =>
    cases h
    rcases asCommand_cases (fun s => (isAppValid s).2) s with heq | heq <;> rw [heq]
    · exact bootsOnlyValid_of_kept (by simp) (by simp)
    · exact isAppValid_bootsOnlyValid (clearCmdErr s)
  | isAppValid => cases h; exact isAppValid_bootsOnlyValid s
  | seqCheck => exact seqCheck_bootsOnlyValid h
  | eotReceiving | seqErase | seqFinish => cases h; exact bootsOnlyValid_of_ne_app (by simp) fun h => .inl (by simpa using h)
  | _ => cases h; exact bootsOnlyValid_of_kept (by simp [returning]) (by simp [returning])

/-- R140: a sample of the line leaves `TOP` and `APP_VALID`. -/
theorem sampled_top_appValid (s : State) : (sampled s).top = s.top ∧ (sampled s).appValid = s.appValid := by
  unfold sampled
  split <;> simp

/-- R226, for every instruction. -/
theorem exec_bootsOnlyValid {i : Instr} {s t : State} (h : exec i s = .next t) : BootsOnlyValid s t := by
  by_cases hi : i = .seqReceive
  · subst hi
    obtain ⟨j, hj, hrow⟩ := execSeqReceive_next h
    obtain ⟨htop, hvalid⟩ := sampled_top_appValid s
    simpa only [BootsOnlyValid, htop, hvalid] using exec_bootsOnlyValid_of_ne (ne_seqReceive_of_isReceiverRow hj) hrow
  · exact exec_bootsOnlyValid_of_ne hi h

/-- R260: a reset leaves `CHECK`, with `APP_VALID` clear. -/
theorem applyReset_bootsOnlyValid (s u : State) : BootsOnlyValid s (applyReset u) :=
  ⟨nofun, nofun⟩

/-- Settles O58: a step runs an instruction (`exec_bootsOnlyValid`), or is a turn of another agent, which writes neither `TOP` nor
`APP_VALID`, or ends in a reset (`applyReset_bootsOnlyValid`). -/
theorem onlyAValidImageBoots : Obligations.OnlyAValidImageBoots := by
  unfold Obligations.OnlyAValidImageBoots
  intro s t h
  change BootsOnlyValid s t
  obtain ⟨-, u, rfl, hcore | ⟨off, w, i, -, hwrite⟩ | rfl | ⟨v, a, w, -, rfl⟩ | ⟨-, a, b, rfl⟩ | ⟨-, rfl⟩
    | ⟨r, -, v, rfl, -⟩⟩ := step_next h
  · exact exec_bootsOnlyValid (s := { s with turns := s.turns.tail }) hcore
  · exact exec_bootsOnlyValid (s := { s with turns := s.turns.tail }) hwrite
  · exact bootsOnlyValid_of_kept rfl rfl
  · exact bootsOnlyValid_of_kept rfl rfl
  · exact bootsOnlyValid_of_kept rfl rfl
  · exact applyReset_bootsOnlyValid s _
  · exact applyReset_bootsOnlyValid s v

end Sys2Proof.Machine
end

section
/-!
PROOF. The core's turn by `TOP` (spec/43_boot_decision.md R214), and the host's writes: the dispatch of `CTRL` (R218, R219,
R222, R223) and the argument registers (R224).
-/

namespace Sys2Proof.Machine

/-! ### The core's turn -/

theorem step_no_turn {s : State} (ha : admitted s.cfg = true) (ht : s.turns = []) :
    step s = exec (decodeTop s.top) s := by
  simp only [step, ha, if_true, fetch, ht, coreTurn]

/-- Settles O5: listed (`step_core`) or not (`step_no_turn`), the core's turn runs the row that `decodeTop` names. -/
theorem coreTurnRunsTheRowOfTop : Obligations.CoreTurnRunsTheRowOfTop := by
  unfold Obligations.CoreTurnRunsTheRowOfTop
  intro s u ha hturn
  have hstep : step s = exec (decodeTop s.top) u := by
    obtain ⟨ht, rfl⟩ | ⟨rest, ht, rfl⟩ := hturn
    · exact step_no_turn ha ht
    · exact step_core ha ht
  rw [hstep]
  refine ⟨fun htop => ?_, fun htop => ?_, fun htop => ?_, fun htop => ?_, fun htop => ?_, fun htop => ?_⟩ <;> rw [htop]
  · rfl
  · rfl
  · rfl
  · rfl
  · exact ⟨rfl, rfl⟩
  · exact ⟨rfl, rfl⟩

/-! ### Host writes -/

/-- Settles O26: each row answers its state, or `setCmdErr` of it. -/
theorem waitingAndRejectedRows : Obligations.WaitingAndRejectedRows := by
  unfold Obligations.WaitingAndRejectedRows
  exact fun s lo2 lo3 cmd => ⟨rfl, rfl, rfl, rfl, rfl, rfl⟩

/-- R35, R218, R224: an aligned 32-bit write of the window, by the row its offset and its word decode to. -/
theorem step_hostWrite_of_decodeWrite {s : State} {off : Nat} {w : Word} {rest : List Turn} {i : Instr}
    (ha : admitted s.cfg = true) (ht : s.turns = .hostWrite (s.cfg.regBase + off) 4 w :: rest) (h : off < 64)
    (h4 : off % 4 = 0) (hd : decodeWrite s.top off w = .ok i) : step s = exec i { s with turns := rest } :=
  (hostWriteRunsTheDecodedInstruction s rest off w ha ht h h4).1 i hd

/-- R222: a code of 4 or more is a reserved command. -/
theorem exec_decodeCmd_of_reserved {cmd : BitVec 4} (h : 0x4 ≤ cmd) (s : State) :
    exec (decodeCmd cmd) s = .next (setCmdErr s) := by
  have hne : cmd ≠ 0 ∧ cmd ≠ 1 ∧ cmd ≠ 2 ∧ cmd ≠ 3 := by bv_omega
  obtain ⟨h0, h1, h2, h3⟩ := hne
  rw [decodeCmd, if_neg h0, if_neg h1, if_neg h2, if_neg h3]
  split <;> rfl

/-- Settles O25: the row is `decodeCtrl` of the word (`step_hostWrite_of_decodeWrite`), by its code and `TOP`; an accepted
command clears `CMD_ERR` itself, so it runs alike with the flag already clear (`asCommand_of_app`). -/
theorem commandDispatch : Obligations.CommandDispatch := by
  unfold Obligations.CommandDispatch
  intro s w rest ha ht cmd u
  have hstep : step s = exec (decodeCtrl s.top w) u :=
    step_hostWrite_of_decodeWrite (off := ctrlOffset) ha ht (by decide) (by decide) rfl
  have haccepted : ∀ run, s.top = .app → asCommand run u = asCommand run { u with cmdErr := false } := fun run htop => by
    rw [asCommand_of_app (s := u) run htop, asCommand_of_app (s := { u with cmdErr := false }) run htop]
    rfl
  rw [hstep]
  have hzero : cmd = 0 → decodeCtrl s.top w = .nop := fun h => if_pos h
  have hbusy : cmd ≠ 0 → s.top ≠ .app → decodeCtrl s.top w = .cmdBusy cmd := fun h htop =>
    (if_neg h).trans (if_neg htop)
  have happ : cmd ≠ 0 → s.top = .app → decodeCtrl s.top w = decodeCmd cmd := fun h htop =>
    (if_neg h).trans (if_pos htop)
  refine ⟨fun h => ?_, fun h htop => ?_, fun htop h => ?_, fun htop h => ?_, fun htop h => ?_, fun htop h => ?_⟩
  · rw [hzero h]; rfl
  · rw [hbusy h htop]; rfl
  · rw [happ (by bv_omega) htop]
    exact exec_decodeCmd_of_reserved h u
  all_goals
    rw [happ (by simp [h]) htop, h]
    exact congrArg Host.Outcome.next (haccepted _ htop)

/-- Settles O27: the two rows write their register; the write decodes to them in every state (`step_hostWrite_of_decodeWrite`),
and the window reads the register at the same offset (`hostReadWord_aligned`). -/
theorem argumentWritesReadBack : Obligations.ArgumentWritesReadBack := by
  unfold Obligations.ArgumentWritesReadBack
  intro s w
  refine ⟨rfl, rfl, fun rest ha ht => ?_, fun rest ha ht => ?_, ?_, ?_⟩
  · exact step_hostWrite_of_decodeWrite ha ht (by decide) (by decide) rfl
  · exact step_hostWrite_of_decodeWrite ha ht (by decide) (by decide) rfl
  · exact hostReadWord_aligned { s with arg0 := w } (by decide) (by decide)
  · exact hostReadWord_aligned { s with arg1 := w } (by decide) (by decide)

end Sys2Proof.Machine
end

section
/-!
PROOF. No step faults in the invariant (spec/60_exceptions.md R240, spec/93_implementation_defined.md U18): an instruction that the
table takes in its control state answers a next state, so every turn does but a change of flash by another agent outside `APP`
(R80, U25).
-/

namespace Sys2Proof.Machine

/-- R23, R97, U18: in the invariant of the control registers `OFFSET` stands at a byte of the packet, so no row that the table takes
faults, the receiver step included. -/
theorem exec_completes {i : Instr} {s : State} (hinv : ReceiverInv s) (htr : trigger (ctxOf s) i = true) :
    ∃ t, exec i s = .next t := by
  by_cases hi : i = .seqReceive
  · subst hi
    refine exec_seqReceive_next (of_decide_eq_true htr) (Decidable.not_or_of_imp fun hrxs => ?_)
    simpa only [OffsetInv, hrxs, if_true] using hinv.2
  · exact exec_next_of_trigger hi htr

/-- R36, R218, R224: what a host write runs is a row that the table takes in that state of the sequencer. -/
theorem trigger_of_hostWriteInstr {s : State} {addr width : Nat} {w : Word} {i : Instr}
    (h : hostWriteInstr s addr width w = some i) : trigger (ctxOf s) i = true := by
  unfold hostWriteInstr at h
  split at h
  case h_1 off _ =>
    cases hd : decodeWrite s.top off w with
    | ok j => rw [hd] at h; cases h; exact trigger_of_decodeWrite (c := ctxOf s) hd
    | error r => rw [hd] at h; cases h
  case h_2 => cases h

/-- R9, R218: the steps that can make flash requests, the core's and a host write's, answer a next state. -/
theorem step_requester_completes {s : State} {r : Requester} {rest : List Turn} (hinv : Inv s)
    (ht : s.turns = turnOf r :: rest) : ∃ t, step s = .next t := by
  have ha : admitted s.cfg = true := hinv.1
  have hturn : ReceiverInv { s with turns := rest } := ((inv_iff s).mp hinv).2
  cases r with
  | core =>
    rw [step_core ha ht]
    exact exec_completes hturn (trigger_decodeTop (ctxOf s))
  | hostWrite addr width w =>
    rw [step_hostWrite ha ht]
    cases hi : hostWriteInstr s addr width w with
    | none => exact ⟨_, rfl⟩
    | some i => exact exec_completes hturn (trigger_of_hostWriteInstr hi)

/-- Settles O54, by the next turn: the core's and a host write's complete (`step_requester_completes`), and so does one of them cut
short by a power loss (`step_powerLoss`); a host read and a reset always do; a change of flash is refused outside `APP`
(`step_hostFlash`). -/
theorem everyStepCompletes : Obligations.EveryStepCompletes := by
  unfold Obligations.EveryStepCompletes
  intro s hinv
  have ha : admitted s.cfg = true := hinv.1
  cases ht : s.turns with
  | nil =>
    rw [step_no_turn ha ht]
    exact .inl (exec_completes ((inv_iff s).mp hinv).2 (trigger_decodeTop (ctxOf s)))
  | cons turn rest =>
    cases turn with
    | core => exact .inl (step_requester_completes (r := .core) hinv ht)
    | hostWrite addr width w => exact .inl (step_requester_completes (r := .hostWrite addr width w) hinv ht)
    | hostRead addr width => exact .inl ⟨_, step_hostRead ha ht⟩
    | hostFlash a b =>
      rw [step_hostFlash ha ht]
      by_cases htop : s.top = .app
      · exact .inl ⟨_, if_pos htop⟩
      · exact .inr ⟨if_neg htop, htop, a, b, rfl⟩
    | reset => exact .inl ⟨_, step_reset ha ht⟩
    | powerLoss r =>
      have hcut : Inv { s with turns := turnOf r :: rest } := hinv
      obtain ⟨v, hv⟩ := step_requester_completes hcut rfl
      rw [step_powerLoss ha ht, hv]
      exact .inl ⟨applyReset v, rfl⟩

end Sys2Proof.Machine
end

section
/-!
PROOF. The timer (spec/60_exceptions.md R249): it is written where it is started, with an event, and by a call of `TimerExpired`,
which leaves an expired timer expired.
-/

namespace Sys2Proof.Machine

/-! ### A call of `TimerExpired` -/

/-- R249, U7, U8: before the timer has been seen expired its answer is the draw. -/
theorem timerExpired_answer {s : State} (h : ∀ ms, s.timer ≠ .expired ms) : (timerExpired s).1 = (drawTimer s).1 := by
  have hlatched : s.timer.latched = false := by
    cases ht : s.timer with
    | unstarted => rfl
    | running ms => rfl
    | expired ms => exact absurd ht (h ms)
  rw [timerExpired_eq, hlatched]
  rfl

/-- R140, R249: a sample of the line leaves an expired timer expired. -/
theorem sampled_timer_of_expired {s : State} {ms : Nat} (h : s.timer = .expired ms) : (sampled s).timer = s.timer := by
  obtain ⟨x, d, tm, es, hsample, htm, -⟩ := sampleLine_next s
  have hkept : (sampleLine s).2.timer = s.timer := by
    rw [hsample]
    rcases htm with rfl | ⟨b, rfl⟩
    · rfl
    · simp only [h, timerAfter]
  unfold sampled
  split
  case h_1 | h_2 => rfl
  case h_3 | h_4 => exact hkept

/-! ### The timer in a step -/

/-- R249: the timer of `t` is that of `s`, or was started between them, with an event of the history. -/
def TimerKeptOrStarted (s t : State) : Prop :=
  t.timer = s.timer ∨ ∃ es ms, t.history = s.history ++ es ∧ .timerStart ms ∈ es ∧ t.timer = .running ms

/-- R141, R144: sending the poll byte starts the timer. -/
theorem sendPoll_timer (s : State) : TimerKeptOrStarted s (sendPoll s) :=
  .inr ⟨[.tx pollByte, .timerStart s.cfg.pollTimeoutMs], s.cfg.pollTimeoutMs, by rw [sendPoll_eq], by simp, rfl⟩

/-- R142, R146: opening a packet starts the timer. -/
theorem openPacket_timer (z : SizeClass) (s : State) : TimerKeptOrStarted s (openPacket z s) :=
  .inr ⟨[.timerStart s.cfg.packetTimeoutMs], s.cfg.packetTimeoutMs, rfl, List.mem_singleton_self _, rfl⟩

/-- R249: a row other than the receiver step keeps the timer or starts it. -/
theorem exec_timerKeptOrStarted_of_ne {i : Instr} {s t : State} (hi : i ≠ .seqReceive) (h : exec i s = .next t) :
    TimerKeptOrStarted s t := by
  cases i with
  | seqReceive => exact absurd rfl hi
  | rxIdlePoll | rxPollingTimeout => cases h; exact sendPoll_timer s
  | sohPolling | stxPolling | sohReceiving | stxReceiving => cases h; exact openPacket_timer _ s
  | rxPayload b => rw [execRxPayload_next h]; exact .inl (by simp)
  | cmdCrc | cmdCheck | cmdTrailer => cases h; exact .inl (asCommand_keeps State.timer (by simp) (by simp))
  | argWrite reg w => cases reg <;> cases h <;> exact .inl rfl
  | seqCheck => rcases execSeqCheck_next h with rfl | rfl <;> exact .inl (by simp)
  | _ => cases h; exact .inl (by simp [returning])

/-- R249: an instruction leaves an expired timer expired, or starts it. -/
theorem exec_timerKeptOrStarted_of_expired {i : Instr} {s t : State} {ms : Nat} (ht : s.timer = .expired ms)
    (h : exec i s = .next t) : TimerKeptOrStarted s t := by
  by_cases hi : i = .seqReceive
  · subst hi
    obtain ⟨j, hj, hrow⟩ := execSeqReceive_next h
    obtain ⟨es, hes⟩ := sampled_history s
    rcases exec_timerKeptOrStarted_of_ne (ne_seqReceive_of_isReceiverRow hj) hrow with hkept | ⟨es', ms', hes', hmem, hrun⟩
    · exact .inl (hkept.trans (sampled_timer_of_expired ht))
    · exact .inr ⟨es ++ es', ms', by rw [hes', hes, List.append_assoc], List.mem_append_right es hmem, hrun⟩
  · exact exec_timerKeptOrStarted_of_ne hi h

/-- Settles O38: what a call writes is `timerExpired_next`, and before the timer has been seen expired its answer is the draw
(`timerExpired_answer`). A step runs an instruction (`exec_timerKeptOrStarted_of_expired`), or is a turn of another agent, of which none but a
reset, ruled out here, writes the timer. -/
theorem expiredTimerStaysExpired : Obligations.ExpiredTimerStaysExpired := by
  unfold Obligations.ExpiredTimerStaysExpired
  refine ⟨fun s => ?_, fun s b hs => ⟨{ s.draws with timer := [b] }, timerExpired_answer hs⟩, fun s t ms hnr ht h => ?_⟩
  · obtain ⟨d, b, heq, htrue⟩ := timerExpired_next s
    refine ⟨b, d, heq.trans ?_, fun ⟨ms, hms⟩ => htrue (by rw [hms]; rfl)⟩
    cases s.timer <;> rfl
  · rw [← ht]
    change TimerKeptOrStarted s t
    obtain ⟨-, u, rfl, hcore | ⟨off, w, i, -, hwrite⟩ | rfl | ⟨v, a, w, -, rfl⟩ | ⟨-, a, b, rfl⟩ | ⟨hreset, -⟩
      | ⟨r, hloss, -⟩⟩ := step_next h
    · exact exec_timerKeptOrStarted_of_expired (s := { s with turns := s.turns.tail }) ht hcore
    · exact exec_timerKeptOrStarted_of_expired (s := { s with turns := s.turns.tail }) ht hwrite
    · exact .inl rfl
    · exact .inl rfl
    · exact .inl rfl
    · rw [NoResetTurn, hreset] at hnr
      exact absurd hnr (by simp [isReset])
    · rw [NoResetTurn, hloss] at hnr
      exact absurd hnr (by simp [isReset])

end Sys2Proof.Machine
end

section
/-!
PROOF. Where the sequencer goes (spec/70_reset_and_hazards.md R264, R272): the CHECK step over an image whose checksum is the
erased trailer, and the moves of `TOP` along the boot order.
-/

namespace Sys2Proof.Machine

/-! ### The checksum that is no trailer -/

/-- R272: a trailer of 0xFFFF means no image, and a checksum of 0xFFFF matches no other. -/
theorem not_validImage_of_imageCrc {s : State} (h : imageCrc s = 0xFFFF) : ¬ ValidImage s :=
  fun ⟨hwritten, hmatch⟩ => hwritten (hmatch.symm.trans h)

/-- Settles O51: the image is not valid (`not_validImage_of_imageCrc`), so the comparator answers no (`isAppValid_verdict`), and by
that answer the CHECK step opens an update (`exec_seqCheck`). -/
theorem checksumAllOnesNeverBoots : Obligations.ChecksumAllOnesNeverBoots := by
  unfold Obligations.ChecksumAllOnesNeverBoots
  intro s h
  have hverdict : ¬ (isAppValid s).1 = true := mt (isAppValid_verdict s).mp (not_validImage_of_imageCrc h)
  refine ⟨{ (isAppValid s).2 with top := .erase }, by rw [exec_seqCheck, if_neg hverdict], rfl, ?_⟩
  exact (isAppValid_appValid s).trans (Bool.eq_false_iff.mpr hverdict)

/-! ### The boot order -/

/-- R264: `TOP` stays as it was, or takes one of the five moves of the boot order. -/
def FollowsBootOrder (old new : Top) : Prop :=
  new = old
  ∨ (old, new) ∈ [(.check, .app), (.check, .erase), (.erase, .receive), (.receive, .finish), (.finish, .restart)]

/-- R214, R264: a row other than the receiver step moves `TOP` along the boot order, from the state the table binds it to: of the
receiver's rows only EOT does, of the sequencer's CHECK, ERASE and FINISH. -/
theorem exec_followsBootOrder_of_ne {i : Instr} {s t : State} (htr : trigger (ctxOf s) i = true) (hi : i ≠ .seqReceive)
    (h : exec i s = .next t) : FollowsBootOrder s.top t.top := by
  cases i with
  | seqReceive => exact absurd rfl hi
  | eotReceiving =>
    cases h
    simp only [trigger, Bool.and_eq_true, decide_eq_true_eq] at htr
    obtain ⟨⟨htop, -⟩, -⟩ : (s.top = .receive ∧ s.rxs = .receiving) ∧ _ := htr
    exact .inr (by simp [htop])
  | seqCheck =>
    have htop : s.top = .check := of_decide_eq_true htr
    rcases execSeqCheck_next h with rfl | rfl <;> exact .inr (by simp [htop])
  | seqErase =>
    cases h
    have htop : s.top = .erase := of_decide_eq_true htr
    exact .inr (by simp [htop])
  | seqFinish =>
    cases h
    have htop : s.top = .finish := of_decide_eq_true htr
    exact .inr (by simp [htop])
  | rxPayload b => rw [execRxPayload_next h]; exact .inl (by simp)
  | argWrite reg w => cases reg <;> cases h <;> exact .inl rfl
  | cmdCrc | cmdCheck | cmdTrailer => cases h; exact .inl (asCommand_keeps State.top (by simp) (by simp))
  | _ => cases h; exact .inl (by simp [returning])

/-- R264, for every instruction the table takes in the control state. -/
theorem exec_followsBootOrder {i : Instr} {s t : State} (htr : trigger (ctxOf s) i = true) (h : exec i s = .next t) :
    FollowsBootOrder s.top t.top := by
  by_cases hi : i = .seqReceive
  · subst hi
    obtain ⟨j, hj, hjtr, hrow⟩ := execSeqReceive_next_trigger (of_decide_eq_true htr) h
    obtain ⟨htop, -⟩ := sampled_top_appValid s
    simpa only [htop] using exec_followsBootOrder_of_ne hjtr hj hrow
  · exact exec_followsBootOrder_of_ne htr hi h

/-- R9, R214: a step without a reset runs an instruction that the table takes in its control state, or leaves the control
registers. -/
theorem step_next_trigger {s t : State} (hnr : NoResetTurn s) (h : step s = .next t) :
    (∃ i, trigger (ctxOf s) i = true ∧ exec i { s with turns := s.turns.tail } = .next t) ∨ ctxOf t = ctxOf s := by
  obtain ⟨-, u, rfl, hcore | ⟨off, w, i, hd, hwrite⟩ | rfl | ⟨v, a, w, -, rfl⟩ | ⟨-, a, b, rfl⟩ | ⟨hreset, -⟩
    | ⟨r, hloss, -⟩⟩ := step_next h
  · exact .inl ⟨_, trigger_decodeTop (ctxOf s), hcore⟩
  · exact .inl ⟨i, trigger_of_decodeWrite (c := ctxOf s) hd, hwrite⟩
  · exact .inr rfl
  · exact .inr rfl
  · exact .inr rfl
  · exact absurd hnr (by simp [NoResetTurn, hreset, isReset])
  · exact absurd hnr (by simp [NoResetTurn, hloss, isReset])

/-- Settles O52: without a reset a step runs an instruction that the table takes in its control state, which follows the boot order
(`exec_followsBootOrder`), or leaves `TOP` with the other control registers (`step_next_trigger`). -/
theorem topFollowsTheBootOrder : Obligations.TopFollowsTheBootOrder := by
  unfold Obligations.TopFollowsTheBootOrder
  intro s t hnr h
  rcases step_next_trigger hnr h with ⟨i, htr, hexec⟩ | hctx
  · exact exec_followsBootOrder (s := { s with turns := s.turns.tail }) htr hexec
  · exact .inl (congrArg Ctx.top hctx)

end Sys2Proof.Machine
end

section
/-!
PROOF. Encoder and decoder are inverse to each other (spec/30_encoding.md R97 to R103, spec/43_boot_decision.md R218): what the decoder
answers is a well-formed row in a control state that the table allows, and its code is the decoded one; the code of such a row
decodes to it. Each is said once for every alphabet: received bytes, transmitted bytes, register writes.
-/

namespace Sys2Proof.Machine

/-! ### What the decoder answers is well-formed -/

theorem wf_decodePolling (x : Sample) : (decodePolling x).wf = true := by
  cases x with
  | byte b =>
    simp only [decodePolling]
    split_ifs with hsoh hstx
    · rfl
    · rfl
    · exact Bool.and_eq_true_iff.mpr ⟨bne_iff_ne.mpr hsoh, bne_iff_ne.mpr hstx⟩
  | expired | quiet => rfl

theorem wf_decodeLeading (b : Byte) : (decodeLeading b).wf = true := by
  unfold decodeLeading
  split_ifs with hsoh hstx heot
  · rfl
  · rfl
  · rfl
  · simp only [Instr.wf, Bool.and_eq_true, bne_iff_ne]
    exact ⟨⟨hsoh, hstx⟩, heot⟩

theorem wf_of_decodePosition {offset : BitVec 11} {size : SizeClass} {b : Byte} {i : Instr}
    (h : decodePosition offset size b = .ok i) : i.wf = true := by
  unfold decodePosition at h
  split_ifs at h <;> cases h
  case pos => exact wf_decodeLeading b
  all_goals rfl

theorem wf_of_decodeReceiver {c : Ctx} {x : Sample} {i : Instr} (h : decodeReceiver c x = .ok i) : i.wf = true := by
  unfold decodeReceiver at h
  split at h
  case h_1 | h_4 => cases h; rfl
  case h_2 => cases h; exact wf_decodePolling x
  case h_3 =>
    cases x with
    | byte b => exact wf_of_decodePosition h
    | expired | quiet => cases h; rfl

theorem wf_decodeCmd (cmd : BitVec 4) : (decodeCmd cmd).wf = true := by
  unfold decodeCmd
  split_ifs <;> rfl

theorem wf_decodeCtrl (top : Top) (w : Word) : (decodeCtrl top w).wf = true := by
  unfold decodeCtrl
  split_ifs with hzero happ
  · rfl
  · exact wf_decodeCmd _
  · exact bne_iff_ne.mpr hzero

theorem wf_of_decodeWrite {top : Top} {off : Nat} {w : Word} {i : Instr} (h : decodeWrite top off w = .ok i) :
    i.wf = true := by
  unfold decodeWrite at h
  split_ifs at h <;> cases h
  · exact wf_decodeCtrl top w
  all_goals rfl

/-! ### The code of what the decoder answers -/

/-- R99: a transmitted byte is of one of three rows, each with that byte as its code, well-formed and bound to no control state. -/
theorem decodeTx_spec {b : Byte} {i : Instr} (h : decodeTx b = .ok i) :
    i.wf = true ∧ (∀ c, trigger c i = true) ∧ encode i = some (.tx b) := by
  unfold decodeTx at h
  split_ifs at h with hpoll hack hnak <;> cases h
  · exact ⟨rfl, fun _ => rfl, by rw [hpoll]; rfl⟩
  · exact ⟨rfl, fun _ => rfl, by rw [hack]; rfl⟩
  · exact ⟨rfl, fun _ => rfl, by rw [hnak]; rfl⟩

/-- R222: a code of 8 to F is its top bit and the three below it. -/
theorem append_extractLsb'_of_high {cmd : BitVec 4} (h : cmd.getLsbD 3 = true) :
    0b1#1 ++ cmd.extractLsb' 0 3 = cmd := by
  revert cmd
  decide

/-- R222: a code of 4 to 7 is `01` and the two bits below. -/
theorem append_extractLsb'_of_middle {cmd : BitVec 4} (h0 : cmd ≠ 0x0) (h1 : cmd ≠ 0x1) (h2 : cmd ≠ 0x2) (h3 : cmd ≠ 0x3)
    (hlow : ¬ cmd.getLsbD 3 = true) : 0b01#2 ++ cmd.extractLsb' 0 2 = cmd := by
  revert cmd
  decide

/-- R101, R222: the code of a command row, the reserved ones included, is its command code. -/
theorem encode_decodeCmd (cmd : BitVec 4) : encode (decodeCmd cmd) = some (.write ctrlOffset (cmd.setWidth 32)) := by
  unfold decodeCmd
  split_ifs with h0 h1 h2 h3 h8
  · rw [h0]; rfl
  · rw [h1]; rfl
  · rw [h2]; rfl
  · rw [h3]; rfl
  · simp only [encode, append_extractLsb'_of_high h8]
  · simp only [encode, append_extractLsb'_of_middle h0 h1 h2 h3 h8]

/-- R101: `CMD` alone is the word with its ignored bits written as 0. -/
theorem setWidth_cmdField (w : Word) : (cmdField w).setWidth 32 = w &&& 0xF := by
  apply BitVec.eq_of_toNat_eq
  have hmask : (w &&& 0xF).toNat = w.toNat % 16 := Nat.and_two_pow_sub_one_eq_mod w.toNat 4
  simp only [hmask, cmdField, BitVec.toNat_setWidth, BitVec.extractLsb'_toNat, Nat.shiftRight_zero]
  omega

theorem encode_decodeCtrl (top : Top) (w : Word) : encode (decodeCtrl top w) = some (.write ctrlOffset (w &&& 0xF)) := by
  rw [← setWidth_cmdField]
  unfold decodeCtrl
  split_ifs with hzero happ
  · rw [hzero]; rfl
  · exact encode_decodeCmd _
  · rfl

theorem encode_of_decodeWrite {top : Top} {off : Nat} {w : Word} {i : Instr} (h : decodeWrite top off w = .ok i) :
    encode i = some (significant (.write off w)) := by
  unfold decodeWrite at h
  split_ifs at h with hctrl harg0 harg1 <;> cases h
  · rw [significant, if_pos hctrl, hctrl, encode_decodeCtrl]
  · rw [significant, if_neg hctrl, harg0]; rfl
  · rw [significant, if_neg hctrl, harg1]; rfl

/-- Settles O3, by the alphabet: a received byte is decoded by the receiver's map only while one is sampled
(`trigger_of_decodeReceiver`, `encode_of_decode_rx`), a transmitted byte by `decodeTx_spec`, and a register write up to the
ignored bits of `CTRL` (`encode_of_decodeWrite`). -/
theorem encodeDecodeAgree : Obligations.EncodeDecodeAgree := by
  unfold Obligations.EncodeDecodeAgree
  intro c code i h
  cases code with
  | rx b =>
    by_cases hsampling : c.top = .receive ∧ (c.rxs = .polling ∨ c.rxs = .receiving)
    · obtain ⟨htop, hrxs⟩ := hsampling
      have hrow : decodeReceiver c (.byte b) = .ok i := (decode_rx_of_sampling b htop hrxs).symm.trans h
      exact ⟨wf_of_decodeReceiver hrow, trigger_of_decodeReceiver htop hrow, encode_of_decode_rx htop h⟩
    · rw [decode, if_neg hsampling] at h
      cases h
  | tx b =>
    obtain ⟨hwf, htrigger, hencode⟩ := decodeTx_spec h
    exact ⟨hwf, htrigger c, hencode⟩
  | write off w => exact ⟨wf_of_decodeWrite h, trigger_of_decodeWrite h, encode_of_decodeWrite h⟩

/-! ### What the code of a row decodes to -/

theorem decodePolling_of_other {b : Byte} (h : Instr.wf (.otherPolling b) = true) :
    decodePolling (.byte b) = .otherPolling b := by
  simp only [Instr.wf, Bool.and_eq_true, bne_iff_ne] at h
  obtain ⟨hsoh, hstx⟩ := h
  exact (if_neg hsoh).trans (if_neg hstx)

theorem decodeLeading_of_other {b : Byte} (h : Instr.wf (.otherReceiving b) = true) :
    decodeLeading b = .otherReceiving b := by
  simp only [Instr.wf, Bool.and_eq_true, bne_iff_ne] at h
  obtain ⟨⟨hsoh, hstx⟩, heot⟩ := h
  exact (if_neg hsoh).trans ((if_neg hstx).trans (if_neg heot))

theorem decode_rx_of_leading {c : Ctx} (b : Byte) (htop : c.top = .receive) (hrxs : c.rxs = .receiving)
    (hoff : c.offset.toNat = 0) : decode c (.rx b) = .ok (decodeLeading b) :=
  (decode_rx_of_receiving b htop hrxs).trans (if_pos hoff)

/-- R97: a received byte stands for every well-formed row that has it as its code and that the table takes there: the row of
`POLLING`, or that of its position in the packet. -/
theorem decode_rx_of_encode {c : Ctx} {i : Instr} {b : Byte} (hwf : i.wf = true) (htr : trigger c i = true)
    (h : encode i = some (.rx b)) : decode c (.rx b) = .ok i := by
  cases i with
  | sohPolling | stxPolling =>
    cases h
    simp only [trigger, Bool.and_eq_true, decide_eq_true_eq] at htr
    obtain ⟨htop, hrxs⟩ := htr
    exact decode_rx_of_polling _ htop hrxs
  | otherPolling x =>
    cases h
    simp only [trigger, Bool.and_eq_true, decide_eq_true_eq] at htr
    obtain ⟨htop, hrxs⟩ := htr
    rw [decode_rx_of_polling _ htop hrxs, decodePolling_of_other hwf]
  | sohReceiving | stxReceiving | eotReceiving =>
    cases h
    simp only [trigger, Bool.and_eq_true, decide_eq_true_eq, beq_iff_eq] at htr
    obtain ⟨⟨htop, hrxs⟩, hoff⟩ := htr
    exact decode_rx_of_leading _ htop hrxs hoff
  | otherReceiving x =>
    cases h
    simp only [trigger, Bool.and_eq_true, decide_eq_true_eq, beq_iff_eq] at htr
    obtain ⟨⟨htop, hrxs⟩, hoff⟩ := htr
    rw [decode_rx_of_leading _ htop hrxs hoff, decodeLeading_of_other hwf]
  | rxIndex x | rxIndexInv x =>
    cases h
    simp only [trigger, Bool.and_eq_true, decide_eq_true_eq, beq_iff_eq] at htr
    obtain ⟨⟨htop, hrxs⟩, hoff⟩ := htr
    simp [decode_rx_of_receiving b htop hrxs, decodePosition, hoff]
  | rxPayload x =>
    cases h
    simp only [trigger, Bool.and_eq_true, decide_eq_true_eq] at htr
    obtain ⟨⟨htop, hrxs⟩, hlo, hhi⟩ := htr
    exact (decode_rx_of_receiving b htop hrxs).trans (decodePosition_payload b hlo hhi)
  | rxCrcHi x =>
    cases h
    simp only [trigger, Bool.and_eq_true, decide_eq_true_eq, beq_iff_eq] at htr
    obtain ⟨⟨htop, hrxs⟩, hoff⟩ := htr
    exact (decode_rx_of_receiving b htop hrxs).trans (decodePosition_crcHi b hoff)
  | rxCrcLo x =>
    cases h
    simp only [trigger, Bool.and_eq_true, decide_eq_true_eq, beq_iff_eq] at htr
    obtain ⟨⟨htop, hrxs⟩, hoff⟩ := htr
    exact (decode_rx_of_receiving b htop hrxs).trans (decodePosition_crcLo b hoff)
  | argWrite reg w => cases reg <;> cases h
  | _ => cases h

theorem decodeTx_of_encode {i : Instr} {b : Byte} (h : encode i = some (.tx b)) : decodeTx b = .ok i := by
  cases i with
  | txPoll | txAck | txNak => cases h; rfl
  | argWrite reg w => cases reg <;> cases h
  | _ => cases h

theorem cmdField_setWidth (cmd : BitVec 4) : cmdField (cmd.setWidth 32) = cmd := by
  revert cmd
  decide

/-- R101, R218: in `APP` every command code is accepted, and code 0 is the row that `decodeCmd` gives it too. -/
theorem decodeCtrl_app (cmd : BitVec 4) : decodeCtrl .app (cmd.setWidth 32) = decodeCmd cmd := by
  rw [decodeCtrl, cmdField_setWidth, if_pos rfl]
  split_ifs with hzero
  · rw [hzero]; rfl
  · rfl

theorem decodeCmd_reserved (low : BitVec 2) : decodeCmd (0b01#2 ++ low) = .cmdReserved low := by
  revert low
  decide

theorem decodeCmd_reserved8F (low : BitVec 3) : decodeCmd (0b1#1 ++ low) = .cmdReserved8F low := by
  revert low
  decide

/-- R223: outside `APP` a non-zero command code is turned away as busy. -/
theorem decodeCtrl_busy {top : Top} {cmd : BitVec 4} (hbusy : top ≠ .app) (hcmd : cmd ≠ 0) :
    decodeCtrl top (cmd.setWidth 32) = .cmdBusy cmd := by
  rw [decodeCtrl, cmdField_setWidth, if_neg hcmd, if_neg hbusy]

/-- R218, R222, R223, R224: a register write stands for every well-formed row that has it as its code and that the table takes
there. -/
theorem decodeWrite_of_encode {c : Ctx} {i : Instr} {off : Nat} {w : Word} (hwf : i.wf = true) (htr : trigger c i = true)
    (h : encode i = some (.write off w)) : decodeWrite c.top off w = .ok i := by
  cases i with
  | nop => cases h; rfl
  | cmdCrc | cmdCheck | cmdTrailer =>
    cases h
    rw [show c.top = .app from of_decide_eq_true htr]
    rfl
  | cmdReserved low =>
    cases h
    rw [show c.top = .app from of_decide_eq_true htr]
    exact congrArg Except.ok ((decodeCtrl_app _).trans (decodeCmd_reserved low))
  | cmdReserved8F low =>
    cases h
    rw [show c.top = .app from of_decide_eq_true htr]
    exact congrArg Except.ok ((decodeCtrl_app _).trans (decodeCmd_reserved8F low))
  | cmdBusy cmd =>
    cases h
    exact congrArg Except.ok (decodeCtrl_busy (of_decide_eq_true htr) (bne_iff_ne.mp hwf))
  | argWrite reg v => cases reg <;> cases h <;> rfl
  | _ => cases h

/-- Settles O2, by the alphabet of the code: `decode_rx_of_encode`, `decodeTx_of_encode`, `decodeWrite_of_encode`. -/
theorem decodeEncodeAgree : Obligations.DecodeEncodeAgree := by
  unfold Obligations.DecodeEncodeAgree
  intro c i code hwf htr h
  cases code with
  | rx b => exact decode_rx_of_encode hwf htr h
  | tx b => exact decodeTx_of_encode h
  | write off w => exact decodeWrite_of_encode hwf htr h

end Sys2Proof.Machine
end

section
/-!
PROOF. The invariant right after power-on (spec/70_reset_and_hazards.md R260), for the configuration EX (notes/assumptions/2.md).
-/

namespace Sys2Proof.Machine

/-- R11: the example configuration meets the constraints. -/
theorem admitted_ex : admitted Config.ex = true := by decide

/-- Settles O13: EX is admitted (`admitted_ex`), so the start of its region is a place of `CURSOR` (`cursorInv_imgStart`); flash lists
nothing, and the receiver is idle in `CHECK`. -/
theorem invariantHoldsAtReset : Obligations.InvariantHoldsAtReset := by
  unfold Obligations.InvariantHoldsAtReset
  have hscratch : State.reset.scratch.length = Config.ex.trailerUnit := by simp [State.reset]
  have hdata : DataInv State.reset :=
    ⟨admitted_ex, State.reset_flash_wf, hscratch, cursorInv_imgStart (s := State.reset) admitted_ex rfl⟩
  have hreceiver : ReceiverInv State.reset := ⟨rfl, rfl⟩
  exact ⟨(inv_iff State.reset).mpr ⟨hdata, hreceiver⟩, rfl⟩

end Sys2Proof.Machine
end
